-- ==== Sys2Proof/Word.lean ====
section
/-! DEFINITION. The value types of the block: bytes, line levels and the host operands (spec/00_scope.md R6 to R8).

All operands are unsigned (R6, R7). The operands whose width is a parameter of R6 are natural numbers: their widths stand in
`Config`, and the functions of the spec are defined on every natural number (R122, spec/92_eei_decisions.md D11). -/

namespace Sys2Proof

/-- A byte: an 8-bit unsigned value (R11). -/
abbrev Byte := BitVec 8

/-- A line level, and a data bit (R8): `false` is LOW, written 0; `true` is HIGH, written 1. -/
abbrev Level := Bool

/-- Operand of `encode_digit`, of `D_WIDTH` bits on the port (R6, R122). -/
abbrev Digit := Nat

/-- Operand of `encode_number`, `N_WIDTH` = 16 bits, fixed by the source (R6). -/
abbrev Number := BitVec 16

/-- A character code, of `CHAR_WIDTH` bits on the port; every value is accepted (R6, R127). -/
abbrev CharCode := Nat

/-- Position operand, of `POS_WIDTH` bits on the port (R6, R91). -/
abbrev Position := Nat

/-- A micro-step code of three bits (R96). -/
abbrev MicroCode := BitVec 3

end Sys2Proof
end

