-- ==== Sys2Proof/Config.lean ====
section
/-! DEFINITION. What an implementation fixes (spec/00_scope.md R6): the fixed numbers, the parameters, the conditions a
parameter must meet, and the model's free values.

The parameters are carried as an argument: they stand in `State.cfg` and no step changes them (log entry 1). -/

namespace Sys2Proof

/-- `REG_COUNT`: number of addressable display registers, fixed (R6). -/
@[simp] abbrev Config.regCount : Nat := 6

/-- `NUMBER_MODULUS`: modulus of `encode_number`, fixed (R6). -/
@[simp] abbrev Config.numberModulus : Nat := 10000

/-- `BLANK`: the segment byte of the space and of every unrecognised character (R6, R125). DEDUCED, log entry 7. -/
@[simp] abbrev Config.blank : Byte := 0x00#8

/-- The parameters of R6 whose value the source does not give. -/
structure Config where
  /-- `ACK_SETTLE_MAX`: greatest number of reads in one acknowledge phase. -/
  ackSettleMax : Nat
  /-- `T_BIT_DELAY`: duration of one delay; no rule reads it (R6, R237). -/
  tBitDelay : Nat
  /-- `CMD_DATA_WRITE_AUTOINC`: wire byte of the data command (R83). -/
  cmdDataWriteAutoinc : Byte
  /-- `CMD_ADDR_BASE`: wire byte of the address command for position 0 (R87). -/
  cmdAddrBase : Byte
  /-- `CMD_DISPLAY_CTRL`: fixed bits of the display-control byte (R88). -/
  cmdDisplayCtrl : Byte
  /-- `BS_ON_BIT`: bit position of on/off in `bs` (R21). -/
  bsOnBit : Nat
  /-- `BS_LEVEL_LSB`: lowest bit position of the level in `bs` (R21). -/
  bsLevelLsb : Nat
  /-- `POS_WIDTH`: width of the position operand (R6). -/
  posWidth : Nat
  /-- `LEN_WIDTH`: width of the length of a byte sequence (R6). -/
  lenWidth : Nat
  /-- `D_WIDTH`: width of the digit operand (R6). -/
  dWidth : Nat
  /-- `CHAR_WIDTH`: width of the character operand (R6). -/
  charWidth : Nat
  /-- `DIGIT_ROM[0..9]` (R121). -/
  digitRom : Vector Byte 10
  /-- `CHAR_ROM`, a finite map from character code to segment byte (R126). -/
  charRom : List (CharCode × Byte)
deriving DecidableEq, Repr

/-- The free value of a read of the data line once the environment's list of answers is used up: either level, under
no law (R25, U5). It has no body, so nothing can be proved of it. Log entry 9. -/
opaque Config.freeLevel : Nat → Level

/-- The free value of `enc_out[31:8]` on the beat of `ENCODE_STRING` that presents a character: R86 states bits 7:0 alone. It
is a function of the port's inputs, because "the same inputs always give the same output" (R120). Log entry 10. -/
opaque Config.freeEncHigh : CharCode → BitVec 24

/-- What display register `a` holds before the first write that sets it: any value, fixed for the run but unknown (R31, R37,
U6). Log entry 12. -/
opaque Config.freeDisp : Nat → Byte

/-- What `tctl` holds before the first display-control command: any value, fixed for the run but unknown (R32, R37, U6). Log
entry 11. -/
opaque Config.freeTctl : BitVec 4

/-- What the target's address pointer holds before the first address command: any value, fixed for the run but unknown (R37,
R57, U6). Log entry 11. -/
opaque Config.freePtr : Nat

/-- `CHAR_ROM[c]`, if `c` is in the map. -/
def Config.charEntry (c : Config) (ch : CharCode) : Option Byte := c.charRom.lookup ch

/-- The upper-case code of letter number `i` of the alphabet (codes are Unicode scalar values, R126). -/
def Config.upperCase (i : Nat) : CharCode := 0x41 + i

/-- The lower-case code of letter number `i` of the alphabet (R126). -/
def Config.lowerCase (i : Nat) : CharCode := 0x61 + i

/-- "space, `-`, `_`, `=`, `?`, `.`" (R125). -/
def Config.symbols : List CharCode := [0x20, 0x2D, 0x5F, 0x3D, 0x3F, 0x2E]

/-- The characters that may be recognised: the digits, letters, and the six symbols (R125 (b)). Log entry 6. -/
def Config.recognisable (ch : Nat) : Bool :=
  (decide (0x30 ≤ ch) && decide (ch ≤ 0x39)) || (decide (0x41 ≤ ch) && decide (ch ≤ 0x5A))
    || (decide (0x61 ≤ ch) && decide (ch ≤ 0x7A)) || Config.symbols.contains ch

/-- Conditions on the acknowledge window and the delay (spec/92_eei_decisions.md, parameters left OPEN). -/
def Config.timingOk (c : Config) : Bool := decide (1 ≤ c.ackSettleMax) && decide (1 ≤ c.tBitDelay)

/-- The on/off bit and the level do not overlap and lie in bits 3:0 (92, parameters left OPEN): two layouts are left. -/
def Config.layoutOk (c : Config) : Bool :=
  (c.bsOnBit == 3 && c.bsLevelLsb == 0) || (c.bsOnBit == 0 && c.bsLevelLsb == 1)

/-- Low 3 bits of `CMD_ADDR_BASE` and low 4 bits of `CMD_DISPLAY_CTRL` zero, and the three command classes told apart
by a receiver (92, parameters left OPEN; R59, R87). -/
def Config.commandsOk (c : Config) : Bool :=
  (c.cmdAddrBase &&& 0x07#8) == 0#8 && (c.cmdDisplayCtrl &&& 0x0F#8) == 0#8
    && !(decide (c.cmdAddrBase.toNat ≤ c.cmdDataWriteAutoinc.toNat)
          && decide (c.cmdDataWriteAutoinc.toNat ≤ c.cmdAddrBase.toNat + 5))
    && (c.cmdDataWriteAutoinc &&& 0xF0#8) != c.cmdDisplayCtrl
    && (c.cmdAddrBase &&& 0xF0#8) != c.cmdDisplayCtrl

/-- Ten distinct bytes with bit 7 = 0 (R121). -/
def Config.digitRomOk (c : Config) : Bool :=
  c.digitRom.toList.all (fun b => !b.getLsbD 7) && decide c.digitRom.toList.Nodup

/-- The conditions of R125 and R126 on `CHAR_ROM`: only digits, letters and the six symbols are in it, each a code of the
character port's width; the space is blank, the digit characters read as the digits, the other five symbols are present, `%`
and `@` are absent, some letter is not recognised, and some letter reads the same in both cases. -/
def Config.charRomOk (c : Config) : Bool :=
  c.charRom.all (fun entry => Config.recognisable entry.1 && decide ((entry.1 : Nat) < 2 ^ c.charWidth))
    && c.charEntry 0x20 == some Config.blank
    && (List.range 10).all (fun i => c.charEntry (0x30 + i) == c.digitRom.toList[i]?)
    && Config.symbols.all (fun ch => (c.charEntry ch).isSome)
    && (c.charEntry 0x25).isNone && (c.charEntry 0x40).isNone
    && (List.range 26).any (fun i =>
          (c.charEntry (Config.upperCase i)).isNone || (c.charEntry (Config.lowerCase i)).isNone)
    && (List.range 26).any (fun i => (c.charEntry (Config.upperCase i)).isSome
          && c.charEntry (Config.upperCase i) == c.charEntry (Config.lowerCase i))

/-- A configuration the spec admits. -/
def Config.ok (c : Config) : Bool :=
  c.timingOk && c.layoutOk && c.commandsOk && c.digitRomOk && c.charRomOk

end Sys2Proof
end

