-- ==== Sys2Proof/Machine/Defaults.lean ====
section
/-! DEFINITION. The default values of the parameters (spec/00_scope.md R6), marked by the spec itself as general
knowledge. Each is the default of a parameter, never a fact about a chip (log entries 2 to 6). -/

namespace Sys2Proof.Machine

/-- The default `DIGIT_ROM` (R121). PRESUMED, log entry 6. -/
def defaultDigitRom : Vector Byte 10 :=
  #v[0x3F#8, 0x06#8, 0x5B#8, 0x4F#8, 0x66#8, 0x6D#8, 0x7D#8, 0x07#8, 0x7F#8, 0x6F#8]

/-- The six symbols of the default `CHAR_ROM` (R126). -/
def defaultSymbols : List (CharCode × Byte) :=
  [(0x20, 0x00#8), (0x2E, 0x80#8), (0x2D, 0x40#8), (0x5F, 0x08#8), (0x3D, 0x48#8), (0x3F, 0x53#8)]

/-- The ten digit characters of the default `CHAR_ROM` (R126): as the digits. -/
def defaultDigitChars : List (CharCode × Byte) :=
  [(0x30, 0x3F#8), (0x31, 0x06#8), (0x32, 0x5B#8), (0x33, 0x4F#8), (0x34, 0x66#8),
   (0x35, 0x6D#8), (0x36, 0x7D#8), (0x37, 0x07#8), (0x38, 0x7F#8), (0x39, 0x6F#8)]

/-- The twenty upper-case letters of the default `CHAR_ROM` (R126): A to J, L, N to U, Y. -/
def defaultUpperCase : List (CharCode × Byte) :=
  [(0x41, 0x77#8), (0x42, 0x7C#8), (0x43, 0x39#8), (0x44, 0x5E#8), (0x45, 0x79#8),
   (0x46, 0x71#8), (0x47, 0x3D#8), (0x48, 0x76#8), (0x49, 0x30#8), (0x4A, 0x1E#8),
   (0x4C, 0x38#8), (0x4E, 0x54#8), (0x4F, 0x3F#8), (0x50, 0x73#8), (0x51, 0x67#8),
   (0x52, 0x50#8), (0x53, 0x6D#8), (0x54, 0x78#8), (0x55, 0x3E#8), (0x59, 0x6E#8)]

/-- The twenty lower-case letters of the default `CHAR_ROM` (R126). -/
def defaultLowerCase : List (CharCode × Byte) :=
  [(0x61, 0x5F#8), (0x62, 0x7C#8), (0x63, 0x58#8), (0x64, 0x5E#8), (0x65, 0x79#8),
   (0x66, 0x71#8), (0x67, 0x3D#8), (0x68, 0x74#8), (0x69, 0x10#8), (0x6A, 0x1E#8),
   (0x6C, 0x38#8), (0x6E, 0x54#8), (0x6F, 0x5C#8), (0x70, 0x73#8), (0x71, 0x67#8),
   (0x72, 0x50#8), (0x73, 0x6D#8), (0x74, 0x78#8), (0x75, 0x1C#8), (0x79, 0x6E#8)]

/-- The default `CHAR_ROM`, 56 entries (R126). PRESUMED, log entry 6. -/
def defaultCharRom : List (CharCode × Byte) :=
  defaultSymbols ++ defaultDigitChars ++ defaultUpperCase ++ defaultLowerCase

/-- The default parameters (R6). `ackSettleMax` is the source's example (log entry 3), `tBitDelay` is read by no rule
(log entry 4), the wire bytes and the layout of `bs` are the spec's general-knowledge defaults (log entries 2, 5), the widths
the spec's own (log entry 8). -/
def defaultConfig : Config where
  ackSettleMax := 10
  tBitDelay := 1
  cmdDataWriteAutoinc := 0x40#8
  cmdAddrBase := 0xC0#8
  cmdDisplayCtrl := 0x80#8
  bsOnBit := 3
  bsLevelLsb := 0
  posWidth := 8
  lenWidth := 8
  dWidth := 8
  charWidth := 21
  digitRom := defaultDigitRom
  charRom := defaultCharRom

end Sys2Proof.Machine
end

