-- ==== Sys2Proof/Machine/Flags.lean ====
section
/-! DEFINITION. The block has no status flags, condition codes or predicates (spec/10_state.md R27): no instruction
computes one. Its one control register, `bs`, has two fields (R21), whose reading, writing and packing stand here. -/

namespace Sys2Proof.Machine

/-- Mask of the `on` field of `bs` (R21). -/
def bsOnMask (c : Config) : Byte := 1#8 <<< c.bsOnBit

/-- Mask of the `level` field of `bs` (R21). -/
def bsLevelMask (c : Config) : Byte := 7#8 <<< c.bsLevelLsb

/-- The `on` field: 1 = display ON (R21). -/
def bsOn (c : Config) (bs : Byte) : Bool := bs.getLsbD c.bsOnBit

/-- The `level` field (R21). -/
def bsLevel (c : Config) (bs : Byte) : BitVec 3 := (bs >>> c.bsLevelLsb).setWidth 3

/-- The `on` field alone, at its place. -/
def bsOnField (c : Config) (on : Bool) : Byte := (BitVec.ofBool on).setWidth 8 <<< c.bsOnBit

/-- The `level` field alone, at its place. -/
def bsLevelField (c : Config) (level : BitVec 3) : Byte := level.setWidth 8 <<< c.bsLevelLsb

/-- Both fields packed, bits 7:4 zero (R21). -/
def bsPack (c : Config) (on : Bool) (level : BitVec 3) : Byte := bsOnField c on ||| bsLevelField c level

/-- `set_display_state`: the level is kept, bits 7:4 become 0; `(bs & 0x07) | (s << 3)` in the default layout (R161). -/
def bsSetOn (c : Config) (bs : Byte) (on : Bool) : Byte := (bs &&& bsLevelMask c) ||| bsOnField c on

/-- `set_brightness`: on/off is kept, bits 7:4 become 0; `(bs & 0x08) | level` in the default layout (R162). -/
def bsSetLevel (c : Config) (bs : Byte) (level : BitVec 3) : Byte := (bs &&& bsOnMask c) ||| bsLevelField c level

/-- The value after `NEW`: ON, level 7, bits 7:4 zero (R37, R160). -/
def bsReset : Byte := 0x0F#8

/-- The nibble that a display-control command carries: `bs[3:0]` (R22, R88). -/
def bsNibble (bs : Byte) : BitVec 4 := bs.setWidth 4

end Sys2Proof.Machine
end

