-- ==== Sys2Proof/Syntax.lean ====
section
/-! DEFINITION. The instructions: one constructor for each of the 27 rows of spec/opcode_table.json (R103), in the
table's order, and the micro-steps and encoder requests they are made of. -/

namespace Sys2Proof

/-- A micro-step of `uprog` (R28): `uCLK(v)`, `uDIO(v)`, `uDLY`, `uACKRD`. -/
inductive MicroStep where
  | clk (v : Level)
  | dio (v : Level)
  | dly
  | ackrd
deriving DecidableEq, Repr

/-- What the host presents on the encoder's port (R86): one beat with a select and the number on the input wires, or the beats of
one string, whose select is `11` on each of them. Log entry 24. -/
inductive EncRequest where
  | beat (sel : BitVec 2) (input : Nat)
  | string (chars : List CharCode)
deriving DecidableEq, Repr

/-- An instruction in the sense of R5: a host operation, an encoder operation, a transport primitive, a micro-step, or a
wire byte the target receives. -/
inductive Instr where
  /-- `NEW` (R160). -/
  | new
  /-- `SET_DISPLAY_STATE s` (R161); `on` is bit 0 of the operand byte, the other bits are ignored (R93). -/
  | setDisplayState (on : Bool)
  /-- `SET_BRIGHTNESS l` (R162); `level` is bits 2:0 of the operand byte (R93). -/
  | setBrightness (level : BitVec 3)
  /-- `WRITE_SEGMENTS_RAW bytes, position` (R163). -/
  | writeSegmentsRaw (position : Position) (bytes : List Byte)
  /-- `WRITE_SEGMENT_RAW byte, position` (R164). -/
  | writeSegmentRaw (position : Position) (byte : Byte)
  /-- `WRITE_DISPLAY_STATE` (R165). -/
  | writeDisplayState
  /-- `CLEAR` (R166). -/
  | clear
  /-- `ENCODE_DIGIT d` (R122). -/
  | encodeDigit (d : Digit)
  /-- `ENCODE_NUMBER n` (R123). -/
  | encodeNumber (n : Number)
  /-- `ENCODE_CHAR c` (R127). -/
  | encodeChar (c : CharCode)
  /-- `ENCODE_STRING s` (R128). -/
  | encodeString (s : List CharCode)
  /-- `START` (R140). -/
  | start
  /-- `STOP` (R141). -/
  | stop
  /-- `SEND_BIT b` (R142). -/
  | sendBit (b : Level)
  /-- `BIT_DELAY` (R143). -/
  | bitDelay
  /-- `ACK_PHASE` (R144). -/
  | ackPhase
  /-- `WRITE_BYTE_ACK x` (R145). -/
  | writeByteAck (x : Byte)
  /-- `uCLK0`: micro-step `uCLK(0)` (R29, R96). -/
  | uClk0
  /-- `uCLK1`: micro-step `uCLK(1)` (R29, R96). -/
  | uClk1
  /-- `uDIO0`: micro-step `uDIO(0)` (R29, R96). -/
  | uDio0
  /-- `uDIO1`: micro-step `uDIO(1)` (R29, R96). -/
  | uDio1
  /-- `uDLY` (R29, R96). -/
  | uDly
  /-- `uACKRD` (R29, R96). -/
  | uAckrd
  /-- `DATA_CMD`, received by the target (R83, R59). -/
  | dataCmd
  /-- `ADDR_CMD`, received by the target; `p` is bits 2:0 (R87, R59). -/
  | addrCmd (p : BitVec 3)
  /-- `DISPLAY_CTRL`, received by the target (R88, R59). -/
  | displayCtrl (on : Bool) (level : BitVec 3)
  /-- `DATA_BYTE`, received by the target (R89, R59). -/
  | dataByte (d : Byte)
deriving DecidableEq, Repr

/-- The instruction that a micro-step is. -/
def MicroStep.toInstr : MicroStep → Instr
  | .clk false => .uClk0
  | .clk true => .uClk1
  | .dio false => .uDio0
  | .dio true => .uDio1
  | .dly => .uDly
  | .ackrd => .uAckrd

end Sys2Proof
end

