-- ==== Sys2Proof/WellFormed.lean ====
section
/-! DEFINITION. Which instructions have an encoding: a host operand, and the length of a byte sequence, fits the width of its
port (R6, R85), and an address command names a register 0..5 (R87). Every value that fits is legal (R99). -/

namespace Sys2Proof

/-- A number fits a width (R6). -/
def fits (width v : Nat) : Bool := decide (v < 2 ^ width)

/-- The operands fit the encoding. -/
def Instr.wellFormed (c : Config) : Instr → Bool
  | .new => true
  | .setDisplayState _ => true
  | .setBrightness _ => true
  | .writeSegmentsRaw position bytes => fits c.posWidth position && fits c.lenWidth bytes.length
  | .writeSegmentRaw position _ => fits c.posWidth position
  | .writeDisplayState => true
  | .clear => true
  | .encodeDigit d => fits c.dWidth d
  | .encodeNumber _ => true
  | .encodeChar ch => fits c.charWidth ch
  | .encodeString chars => chars.all (fits c.charWidth)
  | .start => true
  | .stop => true
  | .sendBit _ => true
  | .bitDelay => true
  | .ackPhase => true
  | .writeByteAck _ => true
  | .uClk0 => true
  | .uClk1 => true
  | .uDio0 => true
  | .uDio1 => true
  | .uDly => true
  | .uAckrd => true
  | .dataCmd => true
  | .addrCmd p => decide (p.toNat ≤ 5)
  | .displayCtrl _ _ => true
  | .dataByte _ => true

end Sys2Proof
end

