-- ==== Sys2Proof/Decode.lean ====
section
/-! DEFINITION. The five layers of encoding (spec/30_encoding.md R80): what each layer's bits stand for, and the encoder.

A bit pattern means something only in its layer: opcode `0x01`, `enc_sel = 01` and micro-step `001` share their bits
(R86, R96). So an encoded instruction is a `Code`, which names the layer and holds the bits. -/

namespace Sys2Proof

/-- An encoded instruction, by layer (R80). A wire byte carries whether it is the first of its frame: a data byte is told
from a command byte by its place alone (R89). -/
inductive Code where
  | host (bytes : List Byte)
  | enc (request : EncRequest)
  | prim (codes : List MicroCode)
  | micro (code : MicroCode)
  | wire (first : Bool) (byte : Byte)
deriving DecidableEq, Repr

/-- The layers that have instructions (R80, R103). -/
inductive Layer where
  | host
  | enc
  | prim
  | micro
  | wire
deriving DecidableEq, Repr

/-- The layer a code belongs to. -/
def Code.layer : Code → Layer
  | .host _ => .host
  | .enc _ => .enc
  | .prim _ => .prim
  | .micro _ => .micro
  | .wire _ _ => .wire

/-- The layer of an instruction: the format of its row in spec/opcode_table.json (R103). -/
def Instr.layer : Instr → Layer
  | .new => .host
  | .setDisplayState _ => .host
  | .setBrightness _ => .host
  | .writeSegmentsRaw _ _ => .host
  | .writeSegmentRaw _ _ => .host
  | .writeDisplayState => .host
  | .clear => .host
  | .encodeDigit _ => .enc
  | .encodeNumber _ => .enc
  | .encodeChar _ => .enc
  | .encodeString _ => .enc
  | .start => .prim
  | .stop => .prim
  | .sendBit _ => .prim
  | .bitDelay => .prim
  | .ackPhase => .prim
  | .writeByteAck _ => .prim
  | .uClk0 => .micro
  | .uClk1 => .micro
  | .uDio0 => .micro
  | .uDio1 => .micro
  | .uDly => .micro
  | .uAckrd => .micro
  | .dataCmd => .wire
  | .addrCmd _ => .wire
  | .displayCtrl _ _ => .wire
  | .dataByte _ => .wire

/-- Why a `Code` is no instruction. -/
inductive Reject where
  /-- The host has not yet sent the last byte of the command (R84). -/
  | incomplete
  /-- Opcodes other than `0x01..0x07` are reserved (R98). -/
  | reservedOpcode (op : Byte)
  /-- Bytes are left after the command (R100 gives its length). -/
  | trailingBytes
  /-- Micro-step codes `110` and `111` are unused (R96). -/
  | unusedMicroCode (code : MicroCode)
  /-- No transport primitive has this string (R140 to R145). -/
  | noSuchPrimitive
  /-- A first byte of a frame that is none of the three commands (R97). -/
  | unknownCommand (byte : Byte)
deriving DecidableEq, Repr

/-! ## Micro-steps (R96) and the strings of the transport primitives (R140 to R145) -/

/-- The micro-step of a 3-bit code (R96). -/
def decodeMicro (code : MicroCode) : Except Reject MicroStep :=
  match code.toNat with
  | 0 => .ok (.clk false)
  | 1 => .ok (.clk true)
  | 2 => .ok (.dio false)
  | 3 => .ok (.dio true)
  | 4 => .ok .dly
  | 5 => .ok .ackrd
  | _ => .error (.unusedMicroCode code)

/-- The 3-bit code of a micro-step (R96). -/
def encodeMicro : MicroStep → MicroCode
  | .clk false => 0b000#3
  | .clk true => 0b001#3
  | .dio false => 0b010#3
  | .dio true => 0b011#3
  | .dly => 0b100#3
  | .ackrd => 0b101#3

/-- `START`: `011 001 100 010 100` (R140). -/
def startString : List MicroStep := [.dio true, .clk true, .dly, .dio false, .dly]

/-- `STOP`: `010 001 100 011 100` (R141). -/
def stopString : List MicroStep := [.dio false, .clk true, .dly, .dio true, .dly]

/-- `SEND_BIT b`: `000 01b 100 001 100` (R142). -/
def sendBitString (b : Level) : List MicroStep := [.clk false, .dio b, .dly, .clk true, .dly]

/-- `BIT_DELAY`: `100` (R143). -/
def bitDelayString : List MicroStep := [.dly]

/-- `ACK_PHASE`: `000 010 100 001 101` (R144). -/
def ackPhaseString : List MicroStep := [.clk false, .dio false, .dly, .clk true, .ackrd]

/-- The bit cells of the bits of `x` whose numbers are listed. -/
def bitCells (x : Byte) : List Nat → List MicroStep
  | [] => []
  | i :: rest => sendBitString (x.getLsbD i) ++ bitCells x rest

/-- `WRITE_BYTE_ACK x`: eight `SEND_BIT`s, bit 0 first, then `ACK_PHASE` (R145, R50). -/
def writeByteString (x : Byte) : List MicroStep := bitCells x [0, 1, 2, 3, 4, 5, 6, 7] ++ ackPhaseString

/-- The data level that the second micro-step of bit cell `i` carries. -/
def cellLevel (string : List MicroStep) (i : Nat) : Level :=
  match string[5 * i + 1]? with
  | some (.dio v) => v
  | _ => false

/-- The byte whose bits the eight bit cells carry, bit 0 first (R50). -/
def cellsByte (string : List MicroStep) : Byte :=
  [7, 6, 5, 4, 3, 2, 1, 0].foldl (fun acc i => (acc <<< 1) ||| (BitVec.ofBool (cellLevel string i)).setWidth 8) 0#8

/-- The transport primitive that a string of micro-steps is. -/
def primOfString (string : List MicroStep) : Except Reject Instr :=
  if string = startString then .ok .start
  else if string = stopString then .ok .stop
  else if string = sendBitString false then .ok (.sendBit false)
  else if string = sendBitString true then .ok (.sendBit true)
  else if string = bitDelayString then .ok .bitDelay
  else if string = ackPhaseString then .ok .ackPhase
  else if string = writeByteString (cellsByte string) then .ok (.writeByteAck (cellsByte string))
  else .error .noSuchPrimitive

/-- A string of 3-bit codes as micro-steps; the first unused code rejects it. -/
def decodeMicros : List MicroCode → Except Reject (List MicroStep)
  | [] => .ok []
  | code :: rest =>
    match decodeMicro code, decodeMicros rest with
    | .ok u, .ok us => .ok (u :: us)
    | .error r, _ => .error r
    | .ok _, .error r => .error r

/-- The transport primitive of a string of 3-bit codes. -/
def decodePrim (codes : List MicroCode) : Except Reject Instr :=
  match decodeMicros codes with
  | .ok string => primOfString string
  | .error r => .error r

/-! ## Host commands (R84 to R86, R93, R98, R100) -/

/-- The number of bytes, least significant first (R85). -/
def natOfBytes : List Byte → Nat
  | [] => 0
  | b :: rest => b.toNat + 256 * natOfBytes rest

/-- The `n` low bytes of a number, least significant first (R85). -/
def bytesOfNat : Nat → Nat → List Byte
  | 0, _ => []
  | n + 1, v => BitVec.ofNat 8 v :: bytesOfNat n (v / 256)

/-- Number of bytes that hold an operand of a width: 1 for the default 8 bits (R85, log entry 8). -/
def operandBytes (width : Nat) : Nat := (width + 7) / 8

/-- A numeric operand at the front of the bytes: its low `width` bits, and the bytes after it. -/
def takeOperand (width : Nat) (bytes : List Byte) : Option (Nat × List Byte) :=
  if operandBytes width ≤ bytes.length then
    some (natOfBytes (bytes.take (operandBytes width)) % 2 ^ width, bytes.drop (operandBytes width))
  else none

/-- `position`, `N` and the `N` bytes of `WRITE_SEGMENTS_RAW`. -/
def decodeSegments (c : Config) (bytes : List Byte) : Except Reject (Instr × List Byte) :=
  match takeOperand c.posWidth bytes with
  | none => .error .incomplete
  | some (position, bytes) =>
    match takeOperand c.lenWidth bytes with
    | none => .error .incomplete
    | some (n, bytes) =>
      if n ≤ bytes.length then .ok (.writeSegmentsRaw position (bytes.take n), bytes.drop n) else .error .incomplete

/-- `position` and the byte of `WRITE_SEGMENT_RAW`. -/
def decodeSegment (c : Config) (bytes : List Byte) : Except Reject (Instr × List Byte) :=
  match takeOperand c.posWidth bytes with
  | some (position, d :: rest) => .ok (.writeSegmentRaw position d, rest)
  | some (_, []) => .error .incomplete
  | none => .error .incomplete

/-- The command of an opcode byte, its operands at the front of the bytes that follow, and the bytes after it. Bits marked
`z` are ignored. -/
def decodeCommand (c : Config) (op : Byte) (rest : List Byte) : Except Reject (Instr × List Byte) :=
  match op.toNat with
  | 1 => .ok (.new, rest)
  | 2 =>
    match rest with
    | s :: rest => .ok (.setDisplayState (s.getLsbD 0), rest)
    | [] => .error .incomplete
  | 3 =>
    match rest with
    | l :: rest => .ok (.setBrightness (l.setWidth 3), rest)
    | [] => .error .incomplete
  | 4 => decodeSegments c rest
  | 5 => decodeSegment c rest
  | 6 => .ok (.writeDisplayState, rest)
  | 7 => .ok (.clear, rest)
  | _ => .error (.reservedOpcode op)

/-- The command at the front of the bytes the host presents, and the bytes after it. -/
def decodeHost (c : Config) : List Byte → Except Reject (Instr × List Byte)
  | [] => .error .incomplete
  | op :: rest => decodeCommand c op rest

/-! ## Encoder requests (R86) -/

/-- All four values of `enc_sel` are defined (R98); the operand is the low bits of `enc_in`, as many as its width. -/
def decodeEnc (c : Config) : EncRequest → Instr
  | .beat sel input =>
    match sel.toNat with
    | 0 => .encodeDigit (input % 2 ^ c.dWidth)
    | 1 => .encodeNumber (BitVec.ofNat 16 input)
    | 2 => .encodeChar (input % 2 ^ c.charWidth)
    | _ => .encodeString [input % 2 ^ c.charWidth]
  | .string chars => .encodeString (chars.map (fun (ch : Nat) => ch % 2 ^ c.charWidth))

/-! ## Wire bytes (R83, R87 to R89) -/

/-- Whether a byte is one of the six address commands (R59, R87). -/
def isAddrCmd (c : Config) (b : Byte) : Bool :=
  decide (c.cmdAddrBase.toNat ≤ b.toNat) && decide (b.toNat ≤ c.cmdAddrBase.toNat + 5)

/-- The wire byte `DATA_CMD` (R83, R95). -/
def dataCmdByte (c : Config) : Byte := c.cmdDataWriteAutoinc

/-- The wire byte `ADDR_CMD` for register `p` (R87, R95). -/
def addrCmdByte (c : Config) (p : Nat) : Byte := c.cmdAddrBase + BitVec.ofNat 8 p

/-- The wire byte `DISPLAY_CTRL` for `bs` (R88, R95): only `bs[3:0]` goes in. -/
def displayCtrlByte (c : Config) (bs : Byte) : Byte := c.cmdDisplayCtrl ||| (bs &&& 0x0F#8)

/-- The wire instruction of a byte: by its value if it is first in its frame, a data byte if it is not (R89). -/
def decodeWire (c : Config) (first : Bool) (b : Byte) : Except Reject Instr :=
  if first then
    if b = dataCmdByte c then .ok .dataCmd
    else if isAddrCmd c b then .ok (.addrCmd ((b - c.cmdAddrBase).setWidth 3))
    else if b &&& 0xF0#8 = c.cmdDisplayCtrl then .ok (.displayCtrl (Machine.bsOn c b) (Machine.bsLevel c b))
    else .error (.unknownCommand b)
  else .ok (.dataByte b)

/-! ## The decoder and the encoder of all five layers -/

/-- The instruction of a code. -/
def decode (c : Config) : Code → Except Reject Instr
  | .host bytes =>
    match decodeHost c bytes with
    | .ok (i, []) => .ok i
    | .ok (_, _ :: _) => .error .trailingBytes
    | .error r => .error r
  | .enc request => .ok (decodeEnc c request)
  | .prim codes => decodePrim codes
  | .micro code =>
    match decodeMicro code with
    | .ok u => .ok u.toInstr
    | .error r => .error r
  | .wire first byte => decodeWire c first byte

/-- The code of an instruction, its ignored bits 0. -/
def encode (c : Config) : Instr → Code
  | .new => .host [0x01#8]
  | .setDisplayState on => .host [0x02#8, (BitVec.ofBool on).setWidth 8]
  | .setBrightness level => .host [0x03#8, level.setWidth 8]
  | .writeSegmentsRaw position bytes =>
    .host (0x04#8 :: (bytesOfNat (operandBytes c.posWidth) position
      ++ bytesOfNat (operandBytes c.lenWidth) bytes.length ++ bytes))
  | .writeSegmentRaw position byte => .host (0x05#8 :: (bytesOfNat (operandBytes c.posWidth) position ++ [byte]))
  | .writeDisplayState => .host [0x06#8]
  | .clear => .host [0x07#8]
  | .encodeDigit d => .enc (.beat 0b00#2 d)
  | .encodeNumber n => .enc (.beat 0b01#2 n.toNat)
  | .encodeChar ch => .enc (.beat 0b10#2 ch)
  | .encodeString s => .enc (.string s)
  | .start => .prim (startString.map encodeMicro)
  | .stop => .prim (stopString.map encodeMicro)
  | .sendBit b => .prim ((sendBitString b).map encodeMicro)
  | .bitDelay => .prim (bitDelayString.map encodeMicro)
  | .ackPhase => .prim (ackPhaseString.map encodeMicro)
  | .writeByteAck x => .prim ((writeByteString x).map encodeMicro)
  | .uClk0 => .micro (encodeMicro (.clk false))
  | .uClk1 => .micro (encodeMicro (.clk true))
  | .uDio0 => .micro (encodeMicro (.dio false))
  | .uDio1 => .micro (encodeMicro (.dio true))
  | .uDly => .micro (encodeMicro .dly)
  | .uAckrd => .micro (encodeMicro .ackrd)
  | .dataCmd => .wire true (dataCmdByte c)
  | .addrCmd p => .wire true (addrCmdByte c p.toNat)
  | .displayCtrl on level => .wire true (displayCtrlByte c (Machine.bsPack c on level))
  | .dataByte d => .wire false d

/-! ## The opcode table's words (log entry 22)

A word of the table is a number of bits with no layer named; it is read as the first row of the table, in the table's
order, that it matches: host command, encoder select, primitive, micro-step, wire byte. -/

/-- The `n` micro-step codes of a string whose leftmost code is the most significant (opcode_table.json, notes). -/
def wordCodes : Nat → Nat → List MicroCode
  | 0, _ => []
  | n + 1, w => BitVec.ofNat 3 (w / 8 ^ n) :: wordCodes n w

/-- The bytes of a host command whose first bytes are the word's: operand bytes the word does not reach are 0. -/
def wordHost (nbytes w : Nat) : List Byte :=
  let bytes := bytesOfNat nbytes w ++ List.replicate 258 0#8
  match decodeHost Machine.defaultConfig bytes with
  | .ok (_, rest) => bytes.take (bytes.length - rest.length)
  | .error _ => bytesOfNat nbytes w

/-- The primitive's string in a word, if the word is one. -/
def wordPrim (nbits w : Nat) : Option Code :=
  let n := if nbits = 15 ∨ nbits = 16 then 5 else if nbits = 135 ∨ nbits = 136 then 45 else 0
  if n ≠ 0 ∧ w < 8 ^ n then
    match decodePrim (wordCodes n w) with
    | .ok _ => some (.prim (wordCodes n w))
    | .error _ => none
  else none

/-- The code of a table word. -/
def tableCode (nbits w : Nat) : Code :=
  if nbits = 2 then .enc (.beat (BitVec.ofNat 2 w) 0)
  else if nbits = 3 then .micro (BitVec.ofNat 3 w)
  else if 1 ≤ w % 256 ∧ w % 256 ≤ 7 then .host (wordHost ((nbits + 7) / 8) w)
  else if w % 256 = 0 then .enc (.beat 0b00#2 (w / 256))
  else
    match wordPrim nbits w with
    | some code => code
    | none =>
      match decodeWire Machine.defaultConfig true (BitVec.ofNat 8 w) with
      | .ok _ => .wire true (BitVec.ofNat 8 w)
      | .error _ => .wire false (BitVec.ofNat 8 w)

/-- The instruction the decoder reads from a word of the opcode table. -/
def decodeTableWord (nbits w : Nat) : Option Instr :=
  match decode Machine.defaultConfig (tableCode nbits w) with
  | .ok i => some i
  | .error _ => none

end Sys2Proof
end

