-- ==== Sys2Proof/Machine/State.lean ====
section
/-! DEFINITION. All the state the spec gives the machine (spec/10_state.md R20, spec/20_memory.md R57), the ports
(R33), the trace (spec/00_scope.md R9), the reasons a step can stop, and the state after reset (R37). Plain data. -/

namespace Sys2Proof.Machine

/-- A pin event (R9): `CLK(v)`, `DIO(v)`, `RD() -> a` with the environment's answer, `DLY()`. -/
inductive Event where
  | clk (v : Level)
  | dio (v : Level)
  | rd (a : Level)
  | dly
deriving DecidableEq, Repr

/-- Memory of the display registers: address and byte, one entry for each of the addresses 0..5, in order (20_memory R57,
R61). An address that is not listed does not exist. -/
abbrev Memory := List Host.Cell

/-- `kind` of the reference target: what the first byte of the frame was (R57). -/
inductive FrameKind where
  | none
  | dataCmd
  | addr
  | ctrl
  | other
deriving DecidableEq, Repr

/-- The reference target (R57). -/
structure Target where
  /-- `disp[0..5]` (R31, R57). -/
  disp : Memory
  /-- `tctl`: payload of the last display-control command (R32, R57). -/
  tctl : BitVec 4
  /-- `ptr`: the address pointer (R36, R57). -/
  ptr : Nat
  /-- `inframe`: between a start and a stop condition. -/
  inframe : Bool
  /-- `nbits`: bits of the current byte received, 0..8. -/
  nbits : Nat
  /-- `cur`: the byte being received. -/
  cur : Byte
  /-- `nbyte`: index of the next byte within the frame. -/
  nbyte : Nat
  /-- `kind`: what the first byte of the frame was. -/
  kind : FrameKind
  /-- The model's own mark: the target has been given a byte whose effect R59 and R60 leave unspecified. A step that would set
  it is refused (U7), so no step answers a state with the mark that had it not before (log entry 13). -/
  lost : Bool
deriving DecidableEq, Repr

/-- The launch premises the block does not check (R235): P1, P2 and P5. P3 and P4 are conditions on single steps. -/
structure Premises where
  /-- P1: both lines are outputs (R36, R224). -/
  linesOut : Bool
  /-- P2: no other agent writes either line (R227). -/
  linesOwned : Bool
  /-- P5: every `DLY()` and every `RD()` returns (R34). -/
  returns : Bool
deriving DecidableEq, Repr

/-- The machine. -/
structure State where
  /-- `brightness_state` (R21). -/
  bs : Byte
  /-- `clk_o` (R23). -/
  clkO : Level
  /-- `dio_o` (R24). -/
  dioO : Level
  /-- `busy` (R28). -/
  busy : Bool
  /-- `uprog` (R28). -/
  uprog : List MicroStep
  /-- `upc` (R28). -/
  upc : Nat
  /-- `ackcnt` (R28). -/
  ackcnt : Nat
  /-- `ackdly` (R28). -/
  ackdly : Bool
  /-- The reference target (R57). -/
  target : Target
  /-- The parameters (R6, log entry 1). -/
  cfg : Config
  /-- The launch premises (R235, log entry 17). -/
  env : Premises
  /-- `rst`, input (R33, R220). -/
  rst : Bool
  /-- The bytes the host presents on `cmd_byte`, next first (R84, log entry 15). -/
  cmdIn : List Byte
  /-- The lookups presented on the encoder's port, next first (R86, log entry 15). -/
  encIn : List EncRequest
  /-- `enc_out`, output (R86). -/
  encOut : BitVec 32
  /-- The bytes of the last lookup, element 0 first (R123, R128). -/
  encBytes : List Byte
  /-- The levels the environment will answer the next reads with (R25, log entry 9). -/
  lineIn : List Level
  /-- The model's own count of reads answered by a free value (log entry 9). -/
  lineDraws : Nat
  /-- The events issued so far, oldest first (R9, R236). -/
  trace : List Event
deriving DecidableEq, Repr

/-- `cmd_ready = not busy` (R33, R84). -/
def State.cmdReady (s : State) : Bool := !s.busy

/-- Why the machine stops with a fault. The block itself raises nothing (R190). -/
inductive Fault where
  /-- Raised by `step` when `busy = 1` and `upc` is not the index of a micro-step. R28 and R29 give no such state, and no
  run reaches one. Safe. Log entry 25. -/
  | sequencerOffEnd
deriving DecidableEq, Repr

/-- Why the machine says nothing of a step. -/
inductive Refusal where
  /-- Raised by an arm of `exec` whose instruction has no meaning yet. Safe. -/
  | notModelled (mnemonic : String)
  /-- Raised by `step` when the host presents an opcode other than `0x01..0x07` (R98, U8). Safe. -/
  | reservedOpcode (op : Byte)
  /-- Raised by a host operation issued while another is in flight (P3, R226, U3). Safe. -/
  | operationInFlight
  /-- Raised by `NEW` while `busy = 1` (P4, R222, U4). Safe. -/
  | resetWhileBusy
  /-- Raised by `step` when the lines are not outputs (P1, R224, U1). Safe. -/
  | linesNotOutputs
  /-- Raised by `step` when another agent writes a line (P2, R227, U2). Safe. -/
  | linesNotOwned
  /-- Raised by `step` when a delay or a read never returns (P5, R34, U11). Safe. -/
  | environmentHangs
  /-- Raised by a micro-step while `busy = 0`: the sequencer has no step then (R29). Safe. Log entry 28. -/
  | sequencerIdle
  /-- Raised by a wire byte that R59 and R60 leave unspecified at its place, and by `uCLK1` or a transport primitive in which the
  target would receive such a byte (U7). Safe. Log entry 13. -/
  | targetUnspecified
deriving DecidableEq, Repr

/-- The display registers before anything has written them: each holds a value, fixed for the run but unknown (R31, R37, U6,
log entry 12). -/
def Memory.atReset : Memory :=
  [(0, Config.freeDisp 0), (1, Config.freeDisp 1), (2, Config.freeDisp 2), (3, Config.freeDisp 3),
   (4, Config.freeDisp 4), (5, Config.freeDisp 5)]

/-- The target when nothing has been sent to it: the spec states `inframe = 0`; `disp`, `tctl` and `ptr` hold any values, fixed
for the run but unknown (R57, U6, log entries 11, 12); the other values are the model's own (log entries 11, 13). -/
def Target.atReset : Target where
  disp := Memory.atReset
  tctl := Config.freeTctl
  ptr := Config.freePtr
  inframe := false
  nbits := 0
  cur := 0#8
  nbyte := 0
  kind := .none
  lost := false

/-- The machine right after reset, which is `NEW` (R37, R220): its trace is `C0 D0` (R160). -/
def State.reset : State where
  bs := bsReset
  clkO := false
  dioO := false
  busy := false
  uprog := []
  upc := 0
  ackcnt := 0
  ackdly := false
  target := Target.atReset
  cfg := defaultConfig
  env := { linesOut := true, linesOwned := true, returns := true }
  rst := false
  cmdIn := []
  encIn := []
  encOut := 0#32
  encBytes := []
  lineIn := []
  lineDraws := 0
  trace := [.clk false, .dio false]

end Sys2Proof.Machine
end

