-- ==== Sys2Proof/Machine/Ops.lean ====
section
/-! DEFINITION. The named operations every meaning is made of: memory, the reference target, the four pin events, the
sequencer's bookkeeping, and the encoder's output.

Taking an exception and returning from one: the block has neither (spec/60_exceptions.md R190, R198, R199), so there is no
operation for them. After any abnormal event the next step is the one it would have been (R198). -/

namespace Sys2Proof.Machine

/-! ## Memory of the display registers -/

/-- What an address that is not listed reads as: nothing, for there is no such register (R54, R61). -/
def Memory.unlisted : Option Byte := none

/-- The byte of register `a`, if there is such a register. -/
def Memory.read : Memory → Nat → Option Byte
  | [], _ => Memory.unlisted
  | cell :: m, a => if a = cell.1 then some cell.2 else Memory.read m a

/-- `MemWrite(a, 1, v)`: `disp[a] <- v` (R57). -/
def Memory.write : Memory → Nat → Byte → Memory
  | [], a, v => [(a, v)]
  | cell :: m, a, v =>
    if a < cell.1 then (a, v) :: cell :: m
    else if a = cell.1 then (a, v) :: m
    else cell :: Memory.write m a v

/-- The canonical form: the display registers 0..5, each once, in order (R57, R61). -/
def Memory.wf (m : Memory) : Bool := m.map Prod.fst == List.range Config.regCount

/-! ## The reference target (R58, R59) -/

/-- `b` with bit `n` set to `v`. -/
def setBit (b : Byte) (n : Nat) (v : Level) : Byte :=
  if v then b ||| (1#8 <<< n) else b &&& ~~~(1#8 <<< n)

/-- `deliver(b)` (R59). Where U7 has a model refuse (an unknown command, for which R59 sets `kind` to `other`, and the branch
R59 calls unspecified) the target is marked `lost` (log entries 13, 14). -/
def Target.deliver (c : Config) (t : Target) (b : Byte) : Target :=
  if t.nbyte = 0 then
    if b = c.cmdDataWriteAutoinc then { t with kind := .dataCmd }
    else if c.cmdAddrBase.toNat ≤ b.toNat ∧ b.toNat ≤ c.cmdAddrBase.toNat + 5 then
      { t with kind := .addr, ptr := b.toNat - c.cmdAddrBase.toNat }
    else if b &&& 0xF0#8 = c.cmdDisplayCtrl then { t with kind := .ctrl, tctl := bsNibble b }
    else { t with kind := .other, lost := true }
  else if t.kind = .addr ∧ t.ptr ≤ 5 then
    { t with disp := Memory.write t.disp t.ptr b, ptr := t.ptr + 1 }
  else { t with lost := true }

/-- The ninth rising edge: `deliver(cur)`, and ready for the next byte (R58). -/
def Target.receive (c : Config) (t : Target) (b : Byte) : Target :=
  { t.deliver c b with nbits := 0, cur := 0#8, nbyte := t.nbyte + 1 }

/-- A start condition (R58). -/
def Target.startFrame (t : Target) : Target :=
  { t with inframe := true, nbits := 0, cur := 0#8, nbyte := 0, kind := .none }

/-- `DIO(v)` as the receiver sees it: `clk`, `dio` are the levels before (R58). -/
def Target.onDio (t : Target) (clk dio v : Level) : Target :=
  if clk then
    if dio && !v then t.startFrame
    else if !dio && v && t.inframe then { t with inframe := false }
    else t
  else t

/-- `CLK(v)` as the receiver sees it: `clk`, `dio` are the levels before (R58). -/
def Target.onClk (c : Config) (t : Target) (clk dio v : Level) : Target :=
  if v && !clk && t.inframe then
    if t.nbits < 8 then { t with cur := setBit t.cur t.nbits dio, nbits := t.nbits + 1 }
    else t.receive c t.cur
  else t

/-- What the target holds in register `a`. -/
def Target.register (t : Target) (a : Nat) : Option Byte := Memory.read t.disp a

/-! ## The four pin events (R9) -/

/-- `CLK(v)`: the event, the target's view of it, and `clk_o <- v`. -/
def State.driveClk (v : Level) (s : State) : State :=
  { s with
    trace := s.trace ++ [.clk v]
    target := s.target.onClk s.cfg s.clkO s.dioO v
    clkO := v }

/-- `DIO(v)`: the event, the target's view of it, and `dio_o <- v`. -/
def State.driveDio (v : Level) (s : State) : State :=
  { s with
    trace := s.trace ++ [.dio v]
    target := s.target.onDio s.clkO s.dioO v
    dioO := v }

/-- `DLY()`: a mark in the trace (R34). -/
def State.delay (s : State) : State := { s with trace := s.trace ++ [.dly] }

/-- The level the next read answers: the environment's next answer, or a free value if it has none ready (R25, U5,
log entry 9). -/
def State.lineLevel (s : State) : Level :=
  match s.lineIn with
  | a :: _ => a
  | [] => Config.freeLevel s.lineDraws

/-- The state after `RD()`: the event with its answer, the answer used up. -/
def State.afterRead (s : State) : State :=
  { s with
    trace := s.trace ++ [.rd s.lineLevel]
    lineIn := s.lineIn.tail
    lineDraws := if s.lineIn = [] then s.lineDraws + 1 else s.lineDraws }

/-! ## The sequencer (R28, R29) -/

/-- An operation is accepted: its micro-program is in flight (R28). -/
def State.load (program : List MicroStep) (s : State) : State :=
  { s with busy := true, uprog := program, upc := 0 }

/-- `upc <- upc + 1`. -/
def State.advance (s : State) : State := { s with upc := s.upc + 1 }

/-- The last line of the sequencer's step: at the end of the program, idle again (R29). -/
def State.finish (s : State) : State :=
  if s.upc = s.uprog.length then { s with busy := false, uprog := [], upc := 0 } else s

/-- A host operation is accepted only when `busy = 0` (R30); one issued while another is in flight has no meaning
(R226, P3). -/
def accept (s : State) (s' : State) : Host.Outcome State Fault Refusal :=
  if s.busy then .refused .operationInFlight else .next s'

/-- The state after the target has seen rising clock edges: if it was given a byte whose effect is unspecified, the model says
nothing (U7, log entry 13). -/
def watched (s : State) : Host.Outcome State Fault Refusal :=
  if s.target.lost then .refused .targetUnspecified else .next s

/-- A micro-step is a step of the sequencer, which has none while `busy = 0` (R29). -/
def microStep (s : State) (s' : State) : Host.Outcome State Fault Refusal :=
  if s.busy then .next s'.finish else .refused .sequencerIdle

/-! ## The encoder's output (R86) -/

/-- A lookup's result: `enc_out` and the bytes of the answer. -/
def State.answer (out : BitVec 32) (bytes : List Byte) (s : State) : State :=
  { s with encOut := out, encBytes := bytes }

/-- One beat of a string: `enc_out[7:0]` is the character's byte, `enc_out[31:8]` a free value (R86, log entry 10). -/
def State.stringBeat (ch : CharCode) (b : Byte) (s : State) : State :=
  { s with encOut := Config.freeEncHigh ch ++ b }

/-- A wire byte as the target receives it: outside a frame it has no effect (R58), and where R59 leaves the effect
unspecified the model says nothing (U7). -/
def receiveByte (b : Byte) (s : State) : Host.Outcome State Fault Refusal :=
  watched (if s.target.inframe then { s with target := s.target.receive s.cfg b } else s)

end Sys2Proof.Machine
end

