-- ==== Sys2Proof/Machine/Operands.lean ====
section
/-! DEFINITION. Operand assembly (spec/30_encoding.md R91 to R95), the frames (R90) and the micro-programs of the
operations that drive the wire (spec/42_engine_ops.md R163, R165). -/

namespace Sys2Proof.Machine

/-- `p = position mod 6` (R91). -/
def normPosition (position : Nat) : Nat := position % Config.regCount

/-- `M = min(N, 6 - p)` (R92). -/
def effectiveLength (n p : Nat) : Nat := min n (Config.regCount - p)

/-- The bytes that are sent: `bytes[0 .. M-1]` (R92). -/
def clampedBytes (p : Nat) (bytes : List Byte) : List Byte := bytes.take (effectiveLength bytes.length p)

/-- The strings of `WRITE_BYTE_ACK` for the bytes of a frame, in order (R51). -/
def bytesString : List Byte → List MicroStep
  | [] => []
  | b :: rest => writeByteString b ++ bytesString rest

/-- A frame: start condition, the bytes, stop condition (R82). -/
def frameString (bytes : List Byte) : List MicroStep := startString ++ bytesString bytes ++ stopString

/-- The frames of `write_display_state` (R165). -/
def displayFrames (c : Config) (bs : Byte) : List (List Byte) := [[displayCtrlByte c bs]]

/-- The frames of `write_segments_raw` for `N >= 1`: data command, address and data, display control (R90, R163). -/
def segmentFrames (c : Config) (bs : Byte) (position : Position) (bytes : List Byte) : List (List Byte) :=
  [dataCmdByte c]
    :: (addrCmdByte c (normPosition position) :: clampedBytes (normPosition position) bytes)
    :: displayFrames c bs

/-- The micro-program that sends frames one after another. -/
def framesProgram : List (List Byte) → List MicroStep
  | [] => []
  | f :: rest => frameString f ++ framesProgram rest

/-- `RomDigit(d mod 10)` (R121, R122); defined for every natural number. -/
def romDigit (c : Config) (d : Nat) : Byte := c.digitRom[d % 10]'(Nat.mod_lt d (by decide))

/-- `RomChar(c)`: the entry if present, else `BLANK` (R126, R127). -/
def romChar (c : Config) (ch : CharCode) : Byte := (c.charEntry ch).getD Config.blank

/-- `ENCODE_NUMBER`: four digits of `n mod 10000`, most significant first, no leading-zero suppression (R123). -/
def numberBytes (c : Config) (n : Nat) : List Byte :=
  let m := n % Config.numberModulus
  [romDigit c (m / 1000), romDigit c ((m / 100) % 10), romDigit c ((m / 10) % 10), romDigit c (m % 10)]

/-- Element `k` of a result on `enc_out[8k+7:8k]`, 0 above the last element (R86, R123). -/
def packBytes : List Byte → BitVec 32
  | [] => 0#32
  | b :: rest => (packBytes rest <<< 8) ||| b.setWidth 32

end Sys2Proof.Machine
end

