-- ==== Sys2Proof/Machine/Encoder.lean ====
section
/-! DEFINITION. The encoder ROM's four lookups (spec/40_encoder_rom.md R122, R123, R127, R128): no event, no effect on
the engine, usable whether or not it is busy (R120), and none can fail (R130). -/

namespace Sys2Proof.Machine

/-- `ENCODE_DIGIT d` (R122): `enc_out[31:8] = 0` (R86). -/
def execEncodeDigit (d : Digit) (s : State) : Host.Outcome State Fault Refusal :=
  .next (s.answer (packBytes [romDigit s.cfg d]) [romDigit s.cfg d])

/-- `ENCODE_NUMBER n` (R123). -/
def execEncodeNumber (n : Number) (s : State) : Host.Outcome State Fault Refusal :=
  .next (s.answer (packBytes (numberBytes s.cfg n.toNat)) (numberBytes s.cfg n.toNat))

/-- `ENCODE_CHAR c` (R127): `enc_out[31:8] = 0` (R86). -/
def execEncodeChar (ch : CharCode) (s : State) : Host.Outcome State Fault Refusal :=
  .next (s.answer (packBytes [romChar s.cfg ch]) [romChar s.cfg ch])

/-- The beats of a string, one character each, in order (R128). -/
def stringBeats (chars : List CharCode) (s : State) : State :=
  chars.foldl (fun s ch => s.stringBeat ch (romChar s.cfg ch)) s

/-- `ENCODE_STRING s` (R128): the eager reading, order and length kept; the empty string has no beat. -/
def execEncodeString (chars : List CharCode) (s : State) : Host.Outcome State Fault Refusal :=
  .next { stringBeats chars s with encBytes := chars.map (romChar s.cfg) }

end Sys2Proof.Machine
end

