-- ==== Sys2Proof/Machine/Engine.lean ====
section
/-! DEFINITION. The seven engine operations (spec/42_engine_ops.md R160 to R166). An operation that drives the wire is
accepted with its whole micro-program, which the sequencer then runs one pin event a step (spec/10_state.md R28, R29; log
entry 19). -/

namespace Sys2Proof.Machine

/-- The state `NEW` leaves (R160): `CLK(0)`, `DIO(0)`, no delay; `bs` and the sequencer as after reset (R37). -/
def afterNew (s : State) : State :=
  { (s.driveClk false).driveDio false with
    bs := bsReset, busy := false, uprog := [], upc := 0, ackcnt := 0, ackdly := false }

/-- `NEW`. A reset that arrives while an operation is in flight is refused (R222, P4). -/
def execNew (s : State) : Host.Outcome State Fault Refusal :=
  if s.busy then .refused .resetWhileBusy else .next (afterNew s)

/-- `SET_DISPLAY_STATE s` (R161): no event. -/
def execSetDisplayState (on : Bool) (s : State) : Host.Outcome State Fault Refusal :=
  accept s { s with bs := bsSetOn s.cfg s.bs on }

/-- `SET_BRIGHTNESS l` (R162): no event. -/
def execSetBrightness (level : BitVec 3) (s : State) : Host.Outcome State Fault Refusal :=
  accept s { s with bs := bsSetLevel s.cfg s.bs level }

/-- `write_segments_raw` accepted: an empty sequence does nothing at all (R163), else the three frames. -/
def loadSegments (position : Position) (bytes : List Byte) (s : State) : State :=
  if bytes = [] then s else s.load (framesProgram (segmentFrames s.cfg s.bs position bytes))

/-- `WRITE_SEGMENTS_RAW bytes, position` (R163). -/
def execWriteSegmentsRaw (position : Position) (bytes : List Byte) (s : State) : Host.Outcome State Fault Refusal :=
  accept s (loadSegments position bytes s)

/-- `WRITE_SEGMENT_RAW byte, position` (R164). -/
def execWriteSegmentRaw (position : Position) (byte : Byte) (s : State) : Host.Outcome State Fault Refusal :=
  accept s (loadSegments position [byte] s)

/-- `WRITE_DISPLAY_STATE` (R165). -/
def execWriteDisplayState (s : State) : Host.Outcome State Fault Refusal :=
  accept s (s.load (framesProgram (displayFrames s.cfg s.bs)))

/-- `CLEAR`: six zero bytes at position 0 (R166). -/
def execClear (s : State) : Host.Outcome State Fault Refusal :=
  accept s (loadSegments 0 (List.replicate Config.regCount 0x00#8) s)

end Sys2Proof.Machine
end

