-- ==== Sys2Proof/Machine/MicroSteps.lean ====
section
/-! DEFINITION. The six micro-steps, each one step of the sequencer with one pin event (spec/10_state.md R29,
spec/30_encoding.md R96). -/

namespace Sys2Proof.Machine

/-- `uCLK(0)`. -/
def execUClk0 (s : State) : Host.Outcome State Fault Refusal := microStep s (s.driveClk false).advance

/-- `uCLK(1)`: the one micro-step in which the target can receive a byte (R58). -/
def execUClk1 (s : State) : Host.Outcome State Fault Refusal :=
  if s.busy then watched (s.driveClk true).advance.finish else .refused .sequencerIdle

/-- `uDIO(0)`. -/
def execUDio0 (s : State) : Host.Outcome State Fault Refusal := microStep s (s.driveDio false).advance

/-- `uDIO(1)`. -/
def execUDio1 (s : State) : Host.Outcome State Fault Refusal := microStep s (s.driveDio true).advance

/-- `uDLY`. -/
def execUDly (s : State) : Host.Outcome State Fault Refusal := microStep s s.delay.advance

/-- One read of the acknowledge phase: LOW or the last read allowed ends it, else a delay is owed (R29). -/
def ackRead (s : State) : State :=
  if s.lineLevel = false ∨ s.ackcnt + 1 = s.cfg.ackSettleMax then
    { s.afterRead with ackcnt := 0 }.advance
  else { s.afterRead with ackcnt := s.ackcnt + 1, ackdly := true }

/-- `uACKRD`: the settle delay that is owed, or a read (R29). -/
def execUAckrd (s : State) : Host.Outcome State Fault Refusal :=
  microStep s (if s.ackdly then { s.delay with ackdly := false } else ackRead s)

end Sys2Proof.Machine
end

