-- ==== Sys2Proof/Machine/Transport.lean ====
section
/-! DEFINITION. The transport primitives (spec/41_transport.md R140 to R145), each as the event list of its rule, issued at
once. The sequencer issues the same events one a step from their strings of micro-steps; R29: "the two agree". The
primitives are not host operations (R150): no step runs one by itself (log entry 20). -/

namespace Sys2Proof.Machine

/-- `START = [ DIO(1), CLK(1), DLY(), DIO(0), DLY() ]` (R140). -/
def start (s : State) : State := ((((s.driveDio true).driveClk true).delay).driveDio false).delay

/-- `STOP = [ DIO(0), CLK(1), DLY(), DIO(1), DLY() ]` (R141). -/
def stop (s : State) : State := ((((s.driveDio false).driveClk true).delay).driveDio true).delay

/-- `SEND_BIT(b) = [ CLK(0), DIO(b), DLY(), CLK(1), DLY() ]` (R142). -/
def sendBit (b : Level) (s : State) : State := ((((s.driveClk false).driveDio b).delay).driveClk true).delay

/-- The settle loop with at most `n` reads left: read; LOW or the last read ends it; else one delay and read again
(R144). -/
def settle : Nat → State → State
  | 0, s => s
  | n + 1, s =>
    if s.lineLevel = false ∨ n = 0 then s.afterRead else settle n s.afterRead.delay

/-- `ACK_PHASE` (R144). -/
def ackPhase (s : State) : State :=
  settle s.cfg.ackSettleMax ((((s.driveClk false).driveDio false).delay).driveClk true)

/-- `n` bit cells of the shift register `sh`, least significant bit first (R145, R50). -/
def sendBits : Nat → Byte → State → State
  | 0, _, s => s
  | n + 1, sh, s => sendBits n (sh >>> 1) (sendBit (sh.getLsbD 0) s)

/-- `WRITE_BYTE_ACK(x)` (R145). -/
def writeByteAck (x : Byte) (s : State) : State := ackPhase (sendBits 8 x s)

/-- `START`. -/
def execStart (s : State) : Host.Outcome State Fault Refusal := watched (start s)

/-- `STOP`. -/
def execStop (s : State) : Host.Outcome State Fault Refusal := watched (stop s)

/-- `SEND_BIT b`. -/
def execSendBit (b : Level) (s : State) : Host.Outcome State Fault Refusal := watched (sendBit b s)

/-- `BIT_DELAY`: one `DLY()` event (R143). -/
def execBitDelay (s : State) : Host.Outcome State Fault Refusal := .next s.delay

/-- `ACK_PHASE`. -/
def execAckPhase (s : State) : Host.Outcome State Fault Refusal := watched (ackPhase s)

/-- `WRITE_BYTE_ACK x`. -/
def execWriteByteAck (x : Byte) (s : State) : Host.Outcome State Fault Refusal := watched (writeByteAck x s)

end Sys2Proof.Machine
end

