-- ==== Sys2Proof/Machine/WireBytes.lean ====
section
/-! DEFINITION. The four wire bytes, as the reference target receives them (spec/20_memory.md R58, R59;
spec/30_encoding.md R83, R87 to R89). In a run the target receives a byte inside the `CLK(1)` of its ninth clock pulse
(log entry 21). -/

namespace Sys2Proof.Machine

/-- `DATA_CMD` (R83). -/
def execDataCmd (s : State) : Host.Outcome State Fault Refusal := receiveByte (dataCmdByte s.cfg) s

/-- `ADDR_CMD` (R87). -/
def execAddrCmd (p : BitVec 3) (s : State) : Host.Outcome State Fault Refusal :=
  receiveByte (addrCmdByte s.cfg p.toNat) s

/-- `DISPLAY_CTRL` (R88). -/
def execDisplayCtrl (on : Bool) (level : BitVec 3) (s : State) : Host.Outcome State Fault Refusal :=
  receiveByte (displayCtrlByte s.cfg (bsPack s.cfg on level)) s

/-- `DATA_BYTE` (R89). -/
def execDataByte (d : Byte) (s : State) : Host.Outcome State Fault Refusal := receiveByte d s

end Sys2Proof.Machine
end

