-- ==== Sys2Proof/Machine/Dispatch.lean ====
section
/-! DEFINITION. One arm for each instruction, in the order of spec/opcode_table.json. -/

namespace Sys2Proof.Machine

def exec (i : Instr) (s : State) : Host.Outcome State Fault Refusal :=
  match i with
  -- host commands
  | .new => Sys2Proof.Machine.execNew s
  | .setDisplayState on => Sys2Proof.Machine.execSetDisplayState on s
  | .setBrightness level => Sys2Proof.Machine.execSetBrightness level s
  | .writeSegmentsRaw position bytes => Sys2Proof.Machine.execWriteSegmentsRaw position bytes s
  | .writeSegmentRaw position byte => Sys2Proof.Machine.execWriteSegmentRaw position byte s
  | .writeDisplayState => Sys2Proof.Machine.execWriteDisplayState s
  | .clear => Sys2Proof.Machine.execClear s
  -- encoder lookups
  | .encodeDigit d => Sys2Proof.Machine.execEncodeDigit d s
  | .encodeNumber n => Sys2Proof.Machine.execEncodeNumber n s
  | .encodeChar c => Sys2Proof.Machine.execEncodeChar c s
  | .encodeString chars => Sys2Proof.Machine.execEncodeString chars s
  -- transport primitives
  | .start => Sys2Proof.Machine.execStart s
  | .stop => Sys2Proof.Machine.execStop s
  | .sendBit b => Sys2Proof.Machine.execSendBit b s
  | .bitDelay => Sys2Proof.Machine.execBitDelay s
  | .ackPhase => Sys2Proof.Machine.execAckPhase s
  | .writeByteAck x => Sys2Proof.Machine.execWriteByteAck x s
  -- micro-steps
  | .uClk0 => Sys2Proof.Machine.execUClk0 s
  | .uClk1 => Sys2Proof.Machine.execUClk1 s
  | .uDio0 => Sys2Proof.Machine.execUDio0 s
  | .uDio1 => Sys2Proof.Machine.execUDio1 s
  | .uDly => Sys2Proof.Machine.execUDly s
  | .uAckrd => Sys2Proof.Machine.execUAckrd s
  -- wire bytes
  | .dataCmd => Sys2Proof.Machine.execDataCmd s
  | .addrCmd p => Sys2Proof.Machine.execAddrCmd p s
  | .displayCtrl on level => Sys2Proof.Machine.execDisplayCtrl on level s
  | .dataByte d => Sys2Proof.Machine.execDataByte d s

end Sys2Proof.Machine
end

