-- ==== Sys2Proof/Machine/Fetch.lean ====
section
/-! DEFINITION. What the machine does next, read from plain data of the state, and how a coded instruction is placed where
the next step takes it.

The order of the agents within a step (log entry 16): the encoder's port, which is independent of the engine (R120); then
the launch premises (R235); then `rst`, which beats a command (R197); then the micro-step in flight (R29); then the host's
command port, ready only when `busy = 0` (R84). -/

namespace Sys2Proof.Machine

/-- What a step does. -/
inductive Fetched where
  /-- Nothing to do: the block waits for the host (R37). -/
  | wait
  /-- Run an instruction from the state in which its bits have been taken. -/
  | run (i : Instr) (s : State)
  /-- The model says nothing of this step. -/
  | refuse (r : Refusal)
  /-- There is no step. -/
  | stuck (f : Fault)
deriving DecidableEq, Repr

/-- The launch premise that is broken, if one is (R235). -/
def brokenPremise (s : State) : Option Refusal :=
  if !s.env.linesOut then some .linesNotOutputs
  else if !s.env.linesOwned then some .linesNotOwned
  else if !s.env.returns then some .environmentHangs
  else none

/-- The command port of an idle block: a complete command is accepted on its last byte; until then the block waits; a
reserved opcode is refused (R84, R98). -/
def fetchCommand (s : State) : Fetched :=
  match decodeHost s.cfg s.cmdIn with
  | .ok (i, rest) => .run i { s with cmdIn := rest }
  | .error (.reservedOpcode op) => .refuse (.reservedOpcode op)
  | .error _ => .wait

/-- The sequencer's next micro-step, `uprog[upc]` (R29). -/
def fetchMicro (s : State) : Fetched :=
  match s.uprog[s.upc]? with
  | some u => .run u.toInstr s
  | none => .stuck .sequencerOffEnd

/-- The engine's next move. A command presented in the beat of `rst` is not accepted (R197); that its bytes wait on the port,
and are taken after the reset, is the model's choice (log entry 15). -/
def fetchEngine (s : State) : Fetched :=
  match brokenPremise s with
  | some r => .refuse r
  | none =>
    if s.rst then .run .new { s with rst := false }
    else if s.busy then fetchMicro s
    else fetchCommand s

/-- The machine's next move. -/
def fetch (s : State) : Fetched :=
  match s.encIn with
  | request :: rest => .run (decodeEnc s.cfg request) { s with encIn := rest }
  | [] => fetchEngine s

/-- The block idle, nothing that comes before the engine's next move pending, the launch premises met. -/
def quiet (s : State) : State :=
  { s with
    encIn := [], rst := false, busy := false, uprog := [], upc := 0, ackcnt := 0, ackdly := false
    env := { linesOut := true, linesOwned := true, returns := true } }

/-- The state in which the target takes byte `b` at the next rising clock edge, first in its frame or not, and the engine is
about to raise the clock. -/
def aboutToReceive (first : Bool) (b : Byte) (s : State) : State :=
  { (quiet s).load [.clk true] with
    clkO := false
    target := { s.target with
      inframe := true, nbits := 8, cur := b, lost := false
      nbyte := if first then 0 else 1
      kind := if first then .none else .addr
      ptr := if first then s.target.ptr else 0 } }

/-- `s` with a coded instruction placed where the next step takes it (log entry 22). -/
def place (code : Code) (s : State) : State :=
  match code with
  | .host bytes => { quiet s with cmdIn := bytes ++ s.cmdIn }
  | .enc request => { s with encIn := request :: s.encIn }
  | .prim codes =>
    match decodeMicros codes with
    | .ok string => (quiet s).load string
    | .error _ => quiet s
  | .micro code =>
    match decodeMicro code with
    | .ok u => (quiet s).load [u]
    | .error _ => quiet s
  | .wire first b => aboutToReceive first b s

end Sys2Proof.Machine
end

