-- ==== Sys2Proof/Machine/Step.lean ====
section
/-! DEFINITION. One step of the machine: run what is fetched. -/

namespace Sys2Proof.Machine

/-- One step: at most one pin event, but for `NEW`, which issues its two at once (R28, R29). -/
def step (s : State) : Host.Outcome State Fault Refusal :=
  match fetch s with
  | .wait => .next s
  | .run i s' => exec i s'
  | .refuse r => .refused r
  | .stuck f => .fault f

/-- `s` with the instruction of a word of the opcode table placed where the next step runs it. -/
def State.withFetchWord (s : State) (nbits w : Nat) : State := place (tableCode nbits w) s

end Sys2Proof.Machine
end

