-- ==== Sys2Proof/Machine/BigStep.lean ====
section
/-! DEFINITION. The big-step reading of the host operations (spec/10_state.md R29: "A model may instead give each
operation a single big step that yields its whole trace as a function of the read answers; the two agree"). `step` does not
use it; the statements compare the sequencer's run with it. -/

namespace Sys2Proof.Machine

/-- `WRITE_BYTE_ACK` of each byte, in order. -/
def sendBytes : List Byte → State → State
  | [], s => s
  | b :: rest, s => sendBytes rest (writeByteAck b s)

/-- One frame: `START`, the bytes, `STOP` (R82). -/
def sendFrame (bytes : List Byte) (s : State) : State := stop (sendBytes bytes (start s))

/-- Frames one after another. -/
def sendFrames : List (List Byte) → State → State
  | [], s => s
  | f :: rest, s => sendFrames rest (sendFrame f s)

/-- `write_segments_raw` in one big step (R163). -/
def writeSegmentsWhole (position : Position) (bytes : List Byte) (s : State) : State :=
  if bytes = [] then s else sendFrames (segmentFrames s.cfg s.bs position bytes) s

/-- The state an idle block is in when a host operation has run to its end. An instruction of another layer is no host
operation and changes nothing here. -/
def completed (i : Instr) (s : State) : State :=
  match i with
  | .new => afterNew s
  | .setDisplayState on => { s with bs := bsSetOn s.cfg s.bs on }
  | .setBrightness level => { s with bs := bsSetLevel s.cfg s.bs level }
  | .writeSegmentsRaw position bytes => writeSegmentsWhole position bytes s
  | .writeSegmentRaw position byte => writeSegmentsWhole position [byte] s
  | .writeDisplayState => sendFrames (displayFrames s.cfg s.bs) s
  | .clear => writeSegmentsWhole 0 (List.replicate Config.regCount 0x00#8) s
  | .encodeDigit _ => s
  | .encodeNumber _ => s
  | .encodeChar _ => s
  | .encodeString _ => s
  | .start => s
  | .stop => s
  | .sendBit _ => s
  | .bitDelay => s
  | .ackPhase => s
  | .writeByteAck _ => s
  | .uClk0 => s
  | .uClk1 => s
  | .uDio0 => s
  | .uDio1 => s
  | .uDly => s
  | .uAckrd => s
  | .dataCmd => s
  | .addrCmd _ => s
  | .displayCtrl _ _ => s
  | .dataByte _ => s

end Sys2Proof.Machine
end

