-- ==== Sys2Proof/Safety.lean ====
section
/-! DEFINITION. The terms in which statements speak: what a state must meet for an operation to be taken, the invariant of
every run, and readings of a trace. -/

namespace Sys2Proof.Machine

/-- Premises P1, P2 and P5 hold (R235). -/
def State.PremisesHold (s : State) : Prop :=
  s.env.linesOut = true ∧ s.env.linesOwned = true ∧ s.env.returns = true

/-- The engine moves next: no encoder request is pending, the launch premises hold and `rst` is not asserted. -/
def State.EngineMoves (s : State) : Prop := s.encIn = [] ∧ s.PremisesHold ∧ s.rst = false

/-- The block is idle and the bytes the host presents begin with the whole of command `i` (R84). -/
def State.Offers (s : State) (i : Instr) (rest : List Byte) : Prop :=
  s.EngineMoves ∧ s.busy = false ∧ decodeHost s.cfg s.cmdIn = .ok (i, rest)

/-- `k` steps of the machine, stopping at the first fault or refusal. -/
def runFor (k : Nat) (s : State) : Host.Outcome State Fault Refusal := Host.Core.run Sys2Proof.core k s

/-- The level of the last `CLK` event, one event later. -/
def noteClk (last : Option Level) : Event → Option Level
  | .clk v => some v
  | .dio _ => last
  | .rd _ => last
  | .dly => last

/-- The level of the last `DIO` event, one event later. -/
def noteDio (last : Option Level) : Event → Option Level
  | .clk _ => last
  | .dio v => some v
  | .rd _ => last
  | .dly => last

/-- The level of the last `CLK` event of a trace. -/
def lastClk (events : List Event) : Option Level := events.foldl noteClk none

/-- The level of the last `DIO` event of a trace. -/
def lastDio (events : List Event) : Option Level := events.foldl noteDio none

/-- R59 gives byte `b` an effect at its place: first in its frame it is one of the three commands, else it is a data byte of an
address frame with the pointer at a register. -/
def Target.Takes (c : Config) (t : Target) (b : Byte) : Prop :=
  (t.nbyte = 0 → ∃ i, decodeWire c true b = .ok i) ∧ (t.nbyte ≠ 0 → t.kind = .addr ∧ t.ptr ≤ 5)

/-- The target can be given a rising clock edge: if that delivers a byte, R59 gives the byte an effect. -/
def Target.Ready (c : Config) (t : Target) : Prop :=
  t.lost = false ∧ (t.inframe = true → 8 ≤ t.nbits → t.Takes c t.cur)

/-- `CLK(1)` gives the target no byte whose effect is unspecified: with the clock HIGH it makes no edge (R58). -/
def State.CanRaise (s : State) : Prop :=
  s.target.Ready s.cfg ∨ (s.target.lost = false ∧ s.clkO = true)

/-- What the target sees of the machine: the levels of the two lines, and itself. -/
structure View where
  clk : Level
  dio : Level
  target : Target

/-- What the target sees of a state. -/
def State.view (s : State) : View := { clk := s.clkO, dio := s.dioO, target := s.target }

/-- What the target sees after a micro-step: "reads and delays mean nothing to it" (R58). -/
def View.after (c : Config) (v : View) : MicroStep → View
  | .clk l => { v with clk := l, target := v.target.onClk c v.clk v.dio l }
  | .dio l => { v with dio := l, target := v.target.onDio v.clk v.dio l }
  | .dly => v
  | .ackrd => v

/-- What the target sees after a string of micro-steps. -/
def View.afterAll (c : Config) (v : View) (string : List MicroStep) : View := string.foldl (View.after c) v

/-- What holds of the machine after reset and after every step. -/
structure Inv (s : State) : Prop where
  /-- The parameters are ones the spec admits. -/
  cfgOk : s.cfg.ok = true
  /-- "Every legal value of `bs` is `0x00..0x0F`" (R21). -/
  bsSmall : s.bs.toNat < 16
  /-- An idle sequencer has no program (R28, R29). -/
  idleProgram : s.busy = false → s.uprog = []
  /-- `upc` is in range (R28). -/
  upcRange : s.upc ≤ s.uprog.length
  /-- A busy sequencer has a next micro-step (R28, R29). -/
  busyNext : s.busy = true → s.upc < s.uprog.length
  /-- "at most 435 micro-steps" (R28, R238). -/
  programShort : s.uprog.length ≤ 435
  /-- `ackcnt` stays below the bound between steps (R20, R29). -/
  ackBound : s.ackcnt < s.cfg.ackSettleMax
  /-- A settle delay is owed only after a read (R28). -/
  ackOwed : s.ackdly = true → 1 ≤ s.ackcnt
  /-- Outside an acknowledge phase both its registers are 0 (R29). -/
  ackOnlyInPhase : s.uprog[s.upc]? ≠ some .ackrd → s.ackcnt = 0 ∧ s.ackdly = false
  /-- The display registers are 0..5, each once, in order (R54, R57). -/
  dispWf : Memory.wf s.target.disp = true
  /-- `nbits` is 0..8 (R57). -/
  nbitsRange : s.target.nbits ≤ 8
  /-- What is left of the program ends the frame the target is in and gives it no byte whose effect is unspecified; an idle
  block's target is between frames (R59, R82, R146). -/
  frameEnds : (s.view.afterAll s.cfg (s.uprog.drop s.upc)).target.inframe = false
    ∧ (s.view.afterAll s.cfg (s.uprog.drop s.upc)).target.lost = false
  /-- `ptr` never exceeds 6 (R59). -/
  ptrRange : s.target.kind = .addr → s.target.ptr ≤ 6
  /-- The kind of a frame is known from its first byte on (R57, R59). -/
  kindKnown : s.target.kind = .none ↔ s.target.nbyte = 0
  /-- `clk_o` is the level of the last `CLK` event (R23). -/
  clkLatch : lastClk s.trace = some s.clkO
  /-- `dio_o` is the level of the last `DIO` event (R24). -/
  dioLatch : lastDio s.trace = some s.dioO

/-- What a micro-step that is over leaves in the sequencer (R29): the next micro-step, or idle at the end. -/
def SequencerMovedOn (s t : State) : Prop :=
  if s.upc + 1 = s.uprog.length then t.busy = false ∧ t.uprog = [] ∧ t.upc = 0
  else t.busy = true ∧ t.uprog = s.uprog ∧ t.upc = s.upc + 1

/-- Whether an event is a pin write. -/
def isPinWrite : Event → Bool
  | .clk _ => true
  | .dio _ => true
  | .rd _ => false
  | .dly => false

/-- Whether an event is a read. -/
def isRead : Event → Bool
  | .clk _ => false
  | .dio _ => false
  | .rd _ => true
  | .dly => false

/-- Number of pin writes in a trace. -/
def pinWrites (events : List Event) : Nat := events.countP isPinWrite

/-- Number of reads in a trace. -/
def reads (events : List Event) : Nat := events.countP isRead

/-- Number of delays in a trace. -/
def delays (events : List Event) : Nat := events.count .dly

/-- Whether every read of a trace finds the clock HIGH, from clock level `clk` on (R146). -/
def readsClockHigh : Level → List Event → Bool
  | _, [] => true
  | _, .clk v :: rest => readsClockHigh v rest
  | clk, .dio _ :: rest => readsClockHigh clk rest
  | clk, .rd _ :: rest => clk && readsClockHigh clk rest
  | clk, .dly :: rest => readsClockHigh clk rest

/-- The first four events of the acknowledge phase (R144). -/
def ackOpening : List Event := [.clk false, .dio false, .dly, .clk true]

/-- `n` reads answered HIGH, each followed by a settle delay (R144). -/
def highReads : Nat → List Event
  | 0 => []
  | n + 1 => .rd true :: .dly :: highReads n

/-- The events of the eight bit cells of a byte, bit 0 first (R142, R145). -/
def cellEvents (x : Byte) : List Nat → List Event
  | [] => []
  | i :: rest => .clk false :: .dio (x.getLsbD i) :: .dly :: .clk true :: .dly :: cellEvents x rest

end Sys2Proof.Machine
end

