-- ==== Sys2Proof/Certificates/Slice0/Obligations.lean ====
section
/-! DEFINITION. The statements for the provers, written from the spec's numbered rules. Each holds in every state that meets
its hypotheses, whether or not a run reaches it. -/

open Sys2Proof Sys2Proof.Machine

/-! ## Encoding and decoding -/

/-- Words written out from the spec's encodings decode to what they stand for (R83, R86, R87, R88, R89, R96, R98, R140 to
R144; vectors T47, T48, T71).
The wire bytes and the widths are the default parameters (log entries 2 and 8). -/
def Obligations.SpecWordsDecode : Prop :=
  decodeHost defaultConfig [0x04#8, 0x04#8, 0x03#8, 0xAA#8, 0xBB#8, 0xCC#8]
      = .ok (.writeSegmentsRaw 4 [0xAA#8, 0xBB#8, 0xCC#8], [])
  ∧ decodeHost defaultConfig [0x02#8, 0xFE#8] = .ok (.setDisplayState false, [])
  ∧ decodeHost defaultConfig [0x03#8, 0x0C#8] = .ok (.setBrightness 4#3, [])
  ∧ decodeHost defaultConfig [0x08#8] = .error (.reservedOpcode 0x08#8)
  ∧ decodeEnc defaultConfig (.beat 0b01#2 1234) = .encodeNumber 1234#16
  ∧ decodePrim [0b011#3, 0b001#3, 0b100#3, 0b010#3, 0b100#3] = .ok .start
  ∧ decodePrim [0b000#3, 0b010#3, 0b100#3, 0b001#3, 0b101#3] = .ok .ackPhase
  ∧ decode defaultConfig (.micro 0b101#3) = .ok .uAckrd
  ∧ decodeWire defaultConfig true 0x40#8 = .ok .dataCmd
  ∧ decodeWire defaultConfig false 0x40#8 = .ok (.dataByte 0x40#8)
  ∧ decodeWire defaultConfig true 0xC4#8 = .ok (.addrCmd 4#3)
  ∧ decodeWire defaultConfig true 0x8F#8 = .ok (.displayCtrl true 7#3)

/-- R80, R86, R96, R83, R87 to R89: in every layer, decoding the encoding of a well-formed instruction gives it back, with
every operand at every value of its width, for every admissible set of parameters, the widths among them (R6).
The bytes of a position or a length that is not 8 bits wide are the model's (log entry 8). -/
def Obligations.DecodeOfEncodeIsTheInstruction : Prop :=
  ∀ (c : Config) (i : Instr), c.ok = true → i.wellFormed c = true → decode c (encode c i) = .ok i

/-- R84, R86, R100: a host command takes exactly its own bytes from a stream, whatever follows them.
The bytes of a position or a length that is not 8 bits wide are the model's (log entry 8). -/
def Obligations.HostStreamYieldsOneCommand : Prop :=
  ∀ (c : Config) (i : Instr) (bytes rest : List Byte),
    i.wellFormed c = true → encode c i = .host bytes → decodeHost c (bytes ++ rest) = .ok (i, rest)

/-- R96: the six micro-steps have the codes `000` to `101`, each decodes back, and `110`, `111` are the codes of none. -/
def Obligations.MicroStepCodesAreThoseOfTheTable : Prop :=
  (∀ v, encodeMicro (.clk v) = (if v then 0b001#3 else 0b000#3) ∧ encodeMicro (.dio v) = (if v then 0b011#3 else 0b010#3))
  ∧ encodeMicro .dly = 0b100#3 ∧ encodeMicro .ackrd = 0b101#3
  ∧ (∀ u, decodeMicro (encodeMicro u) = .ok u)
  ∧ (∀ code, (∃ u, decodeMicro code = .ok u) ↔ code ≠ 0b110#3 ∧ code ≠ 0b111#3)

/-- R98: an idle block refuses a first byte, and so its opcode, exactly when it is none of `0x01..0x07`. The refusal is the
whole outcome: there is no next state, so no state changes and no event is issued. -/
def Obligations.ReservedOpcodesAreRefused : Prop :=
  ∀ (s : State) (op : Byte) (rest : List Byte), s.EngineMoves → s.busy = false → s.cmdIn = op :: rest →
    (step s = .refused (.reservedOpcode op) ↔ op.toNat = 0 ∨ 8 ≤ op.toNat)

/-! ## What a step runs -/

/-- R84: when the engine moves and the block is idle, a step runs the command at the front of the host's bytes, from the
state in which those bytes are taken.
That a command is taken at once is the model's form (log entry 15). -/
def Obligations.StepRunsTheOfferedCommand : Prop :=
  ∀ (s : State) (i : Instr) (rest : List Byte), s.Offers i rest → step s = exec i { s with cmdIn := rest }

/-- R29: when the engine moves and is busy, a step runs the micro-step `uprog[upc]`.
The order of the agents within a step is the model's (log entry 16). -/
def Obligations.StepRunsTheNextMicroStep : Prop :=
  ∀ (s : State) (u : MicroStep), s.EngineMoves → s.busy = true → s.uprog[s.upc]? = some u → step s = exec u.toInstr s

/-- R120, R86: a step runs the lookup presented on the encoder's port, whether or not the engine is busy.
That the port goes first in a step is the model's choice (log entry 16). -/
def Obligations.StepRunsTheEncoderRequest : Prop :=
  ∀ (s : State) (request : EncRequest) (rest : List EncRequest), s.encIn = request :: rest →
    step s = exec (decodeEnc s.cfg request) { s with encIn := rest }

/-- R37, R84: an idle block waits, unchanged, while the host has not sent the last byte of a command.
That the bytes stay on the port is the model's form (log entry 15). -/
def Obligations.IdleBlockWaitsForTheLastByte : Prop :=
  ∀ s : State, s.EngineMoves → s.busy = false → decodeHost s.cfg s.cmdIn = .error .incomplete → step s = .next s

/-- R197, R220: `rst` performs `NEW`, and beats a command in the same beat: whatever the host presents, none of its bytes is
taken, and the trace grows by `C0 D0`.
That the request for reset is taken away, and that the command waits on the port and is not dropped, are the model's choice
(log entry 15). -/
def Obligations.ResetInputBeatsACommand : Prop :=
  ∀ s : State, s.encIn = [] → s.PremisesHold → s.rst = true → s.busy = false →
    ∃ t, step s = .next t ∧ t.rst = false ∧ t.cmdIn = s.cmdIn ∧ t.bs = 0x0F#8
      ∧ t.trace = s.trace ++ [.clk false, .dio false]

/-- R222, R226: while an operation is in flight every other host operation is refused, and so is a reset, by the input or
by the operation.
The names of the refusals are the model's (log entry 18). -/
def Obligations.NothingOverlapsAnOperation : Prop :=
  ∀ s : State, s.busy = true →
    (∀ i : Instr, i.layer = .host → i ≠ .new → exec i s = .refused .operationInFlight)
    ∧ exec .new s = .refused .resetWhileBusy
    ∧ (s.encIn = [] → s.PremisesHold → s.rst = true → step s = .refused .resetWhileBusy)

/-- R224, R227, R235: a run that breaks launch premise P1, P2 or P5 is refused by name.
The bits that hold the premises and the names of the refusals are the model's (log entry 17). -/
def Obligations.BrokenPremisesAreRefused : Prop :=
  ∀ s : State, s.encIn = [] →
    (s.env.linesOut = false → step s = .refused .linesNotOutputs)
    ∧ (s.env.linesOut = true → s.env.linesOwned = false → step s = .refused .linesNotOwned)
    ∧ (s.env.linesOut = true → s.env.linesOwned = true → s.env.returns = false → step s = .refused .environmentHangs)

/-- R58, R59, U7: on the ninth rising edge of a byte inside a frame `CLK(1)` gives the target what the wire instruction of that
byte gives it; and if R59 leaves the byte's effect unspecified at its place, `CLK(1)` is refused.
The name of the refusal is the model's (log entry 13). -/
def Obligations.NinthEdgeRunsTheReceivedWireByte : Prop :=
  ∀ s : State, s.cfg.ok = true → s.busy = true → s.clkO = false → s.target.inframe = true → s.target.nbits = 8 →
    (∀ (t : State) (i : Instr), decodeWire s.cfg (s.target.nbyte == 0) s.target.cur = .ok i → exec i s = .next t →
      ∃ t', exec .uClk1 s = .next t' ∧ t'.target = t.target)
    ∧ (¬ s.target.Takes s.cfg s.target.cur → exec .uClk1 s = .refused .targetUnspecified)

/-! ## Reset and the operations that only change state -/

/-- R37: the block's state after reset, as the table gives it; the data line is an output.
The layout of `bs` is the default one (log entry 5). -/
def Obligations.ResetStateIsThatOfTheTable : Prop :=
  State.reset.bs = 0x0F#8 ∧ bsOn defaultConfig State.reset.bs = true ∧ bsLevel defaultConfig State.reset.bs = 7#3
  ∧ State.reset.clkO = false ∧ State.reset.dioO = false ∧ State.reset.busy = false ∧ State.reset.upc = 0
  ∧ State.reset.ackcnt = 0 ∧ State.reset.ackdly = false ∧ State.reset.uprog = [] ∧ State.reset.env.linesOut = true

/-- R160: `NEW` on an idle block issues `CLK(0)` then `DIO(0)`, sets `bs` to `0x0F` and the sequencer to 0, and changes
nothing else; the target sees no start condition and keeps all it holds. Opcode `0x01`, or the `rst` input.
The order of the two writes and the missing delay are the spec's own (D8); that the request for reset is taken away, and that
the encoder's port goes first in a step, are the model's (log entries 15 and 16). -/
def Obligations.NewInitialisesTheBlock : Prop :=
  (∀ c rest, decodeHost c (0x01#8 :: rest) = .ok (.new, rest))
  ∧ (∀ s : State, s.encIn = [] → s.PremisesHold → s.rst = true → step s = exec .new { s with rst := false })
  ∧ ∀ s : State, s.busy = false →
      exec .new s = .next { s with
        bs := 0x0F#8, clkO := false, dioO := false, busy := false, uprog := [], upc := 0, ackcnt := 0, ackdly := false
        trace := s.trace ++ [.clk false, .dio false] }

/-- R161: `SET_DISPLAY_STATE s` writes the on/off field, keeps the level and bits 7:4 zero, issues no event and changes
nothing else, the target's registers among it; in the default layout the value is `(bs & 0x07) | (s << 3)`. Opcode `0x02`,
bit 0 of the operand. -/
def Obligations.SetDisplayStateWritesTheOnField : Prop :=
  (∀ c b rest, decodeHost c (0x02#8 :: b :: rest) = .ok (.setDisplayState (b.getLsbD 0), rest))
  ∧ ∀ (s : State) (on : Bool), s.cfg.ok = true → s.busy = false →
      ∃ t, exec (.setDisplayState on) s = .next t ∧ t = { s with bs := t.bs }
        ∧ bsOn s.cfg t.bs = on ∧ bsLevel s.cfg t.bs = bsLevel s.cfg s.bs ∧ t.bs.toNat < 16
        ∧ (s.cfg.bsOnBit = 3 → t.bs = (s.bs &&& 0x07#8) ||| (if on then 0x08#8 else 0x00#8))

/-- R162: `SET_BRIGHTNESS l` writes the level field modulo 8, keeps the on/off field and bits 7:4 zero, issues no event and
changes nothing else; in the default layout the value is `(bs & 0x08) | (l mod 8)`. Opcode `0x03`. -/
def Obligations.SetBrightnessWritesTheLevelField : Prop :=
  (∀ c b rest, ∃ level, decodeHost c (0x03#8 :: b :: rest) = .ok (.setBrightness level, rest) ∧ level.toNat = b.toNat % 8)
  ∧ ∀ (s : State) (level : BitVec 3), s.cfg.ok = true → s.busy = false →
      ∃ t, exec (.setBrightness level) s = .next t ∧ t = { s with bs := t.bs }
        ∧ bsLevel s.cfg t.bs = level ∧ bsOn s.cfg t.bs = bsOn s.cfg s.bs ∧ t.bs.toNat < 16
        ∧ (s.cfg.bsOnBit = 3 → t.bs = (s.bs &&& 0x08#8) ||| BitVec.ofNat 8 level.toNat)

/-- R161, R22 (the source's property S7): setting a brightness, then OFF, then ON keeps that brightness, with no event and
nothing committed to the target. -/
def Obligations.BrightnessSurvivesOffAndOn : Prop :=
  ∀ (s : State) (level : BitVec 3), s.cfg.ok = true → s.busy = false →
    ∃ t₁ t₂ t₃, exec (.setBrightness level) s = .next t₁ ∧ exec (.setDisplayState false) t₁ = .next t₂
      ∧ exec (.setDisplayState true) t₂ = .next t₃
      ∧ bsOn s.cfg t₂.bs = false ∧ bsOn s.cfg t₃.bs = true ∧ bsLevel s.cfg t₃.bs = level
      ∧ t₃ = { s with bs := t₃.bs }

/-! ## The operations that drive the wire, accepted -/

/-- R165, R238: `WRITE_DISPLAY_STATE` on an idle block is accepted with the program of one frame, `START`, the byte
`CMD_DISPLAY_CTRL | bs[3:0]`, `STOP`: 55 micro-steps. `bs`, the lines and all else are unchanged.
The events follow one a step (log entry 19). -/
def Obligations.WriteDisplayStateIsAccepted : Prop :=
  ∀ s : State, s.busy = false →
    ∃ t, exec .writeDisplayState s = .next t
      ∧ t = { s with busy := true, upc := 0, uprog := t.uprog }
      ∧ t.uprog = startString ++ writeByteString (s.cfg.cmdDisplayCtrl ||| (s.bs &&& 0x0F#8)) ++ stopString
      ∧ t.uprog.length = 55

/-- R163, R90, R92, R171, R238: `WRITE_SEGMENTS_RAW` with `N >= 1` on an idle block is accepted with the program of three
frames: the data command; the address `CMD_ADDR_BASE + p` and the first `M` bytes; the display-control byte. `165 + 45*M`
micro-steps. With `N = 0` it does nothing at all: no event, no state change, no commit of `bs`.
The events follow one a step (log entry 19). -/
def Obligations.WriteSegmentsRawIsAccepted : Prop :=
  (∀ (s : State) (position : Nat), s.busy = false → exec (.writeSegmentsRaw position []) s = .next s)
  ∧ ∀ (s : State) (position : Nat) (bytes : List Byte) (p m : Nat), s.busy = false → bytes ≠ [] →
    p = position % 6 → m = min bytes.length (6 - p) →
    ∃ t, exec (.writeSegmentsRaw position bytes) s = .next t
      ∧ t = { s with busy := true, upc := 0, uprog := t.uprog }
      ∧ t.uprog =
          (startString ++ writeByteString s.cfg.cmdDataWriteAutoinc ++ stopString)
          ++ (startString ++ writeByteString (s.cfg.cmdAddrBase + BitVec.ofNat 8 p)
                ++ ((bytes.take m).map writeByteString).flatten ++ stopString)
          ++ (startString ++ writeByteString (s.cfg.cmdDisplayCtrl ||| (s.bs &&& 0x0F#8)) ++ stopString)
      ∧ t.uprog.length = 165 + 45 * m

/-- R164, R238: `WRITE_SEGMENT_RAW byte, position` is `WRITE_SEGMENTS_RAW [byte], position`, in every state; an idle block
accepts it with 210 micro-steps and changes nothing else. -/
def Obligations.WriteSegmentRawIsAWriteOfOneByte : Prop :=
  ∀ (s : State) (position : Nat) (byte : Byte),
    exec (.writeSegmentRaw position byte) s = exec (.writeSegmentsRaw position [byte]) s
    ∧ (s.busy = false → ∃ t, exec (.writeSegmentRaw position byte) s = .next t
        ∧ t = { s with busy := true, upc := 0, uprog := t.uprog } ∧ t.uprog.length = 210)

/-- R166, R238: `CLEAR` is `WRITE_SEGMENTS_RAW [0x00 six times], 0`, in every state; an idle block accepts it with 435
micro-steps and changes nothing else. -/
def Obligations.ClearIsAWriteOfSixZeroBytes : Prop :=
  ∀ s : State,
    exec .clear s = exec (.writeSegmentsRaw 0 [0x00#8, 0x00#8, 0x00#8, 0x00#8, 0x00#8, 0x00#8]) s
    ∧ (s.busy = false → ∃ t, exec .clear s = .next t
        ∧ t = { s with busy := true, upc := 0, uprog := t.uprog } ∧ t.uprog.length = 435)

/-- R91, R92: the position is taken modulo 6; the bytes sent are the first `min(N, 6 - p)`; at least one is sent of a
sequence that is not empty; and no register beyond 5 is addressed. -/
def Obligations.ClampKeepsAWriteInTheRegisters : Prop :=
  ∀ (position : Nat) (bytes : List Byte),
    normPosition position = position % 6
    ∧ ∃ m, clampedBytes (normPosition position) bytes = bytes.take m ∧ m = min bytes.length (6 - normPosition position)
      ∧ normPosition position + m ≤ 6 ∧ (bytes ≠ [] → 1 ≤ m)

/-! ## The sequencer's steps -/

/-- R29, R23, R58: `uCLK(v)` on a busy sequencer issues `CLK(v)` alone, sets `clk_o`, moves on by one micro-step and ends the
program at its last; the target sees the edge; nothing else changes. `CLK(0)`, and `CLK(1)` with the clock HIGH, have no effect
on the target. `CLK(1)` completes unless it would give the target a byte whose effect is unspecified; then it is refused (U7).
The mark by which the model tells that, and the refusal's name, are its own (log entry 13). -/
def Obligations.ClockMicroSteps : Prop :=
  ∀ s : State, s.busy = true →
    (∃ t, exec .uClk0 s = .next t ∧ SequencerMovedOn s t
      ∧ t = { s with busy := t.busy, uprog := t.uprog, upc := t.upc, clkO := false, trace := s.trace ++ [.clk false] })
    ∧ (s.CanRaise →
      ∃ t, exec .uClk1 s = .next t ∧ SequencerMovedOn s t
        ∧ t = { s with
            busy := t.busy, uprog := t.uprog, upc := t.upc, clkO := true, trace := s.trace ++ [.clk true]
            target := if s.clkO then s.target else s.target.onClk s.cfg false s.dioO true })
    ∧ (¬ s.CanRaise → exec .uClk1 s = .refused .targetUnspecified)

/-- R29, R24, R58: `uDIO(v)` on a busy sequencer issues `DIO(v)` alone, sets `dio_o`, moves on; with the clock LOW the target
sees nothing, with the clock HIGH a fall is a start condition and a rise inside a frame a stop condition. -/
def Obligations.DataMicroSteps : Prop :=
  ∀ s : State, s.busy = true →
    (∃ t, exec .uDio0 s = .next t ∧ SequencerMovedOn s t
      ∧ t = { s with
          busy := t.busy, uprog := t.uprog, upc := t.upc, dioO := false, trace := s.trace ++ [.dio false]
          target := if s.clkO && s.dioO then
              { s.target with inframe := true, nbits := 0, cur := 0#8, nbyte := 0, kind := .none }
            else s.target })
    ∧ (∃ t, exec .uDio1 s = .next t ∧ SequencerMovedOn s t
      ∧ t = { s with
          busy := t.busy, uprog := t.uprog, upc := t.upc, dioO := true, trace := s.trace ++ [.dio true]
          target := if s.clkO && !s.dioO then { s.target with inframe := false } else s.target })

/-- R29, R34: `uDLY` on a busy sequencer leaves one mark in the trace and moves on; nothing else changes. -/
def Obligations.DelayMicroStep : Prop :=
  ∀ s : State, s.busy = true →
    ∃ t, exec .uDly s = .next t ∧ SequencerMovedOn s t
      ∧ t = { s with busy := t.busy, uprog := t.uprog, upc := t.upc, trace := s.trace ++ [.dly] }

/-- R29, R25: `uACKRD` on a busy sequencer that has a next micro-step. A settle delay that is owed is issued and nothing
else happens. Else the line is read: answered LOW, or at the last read allowed, the phase is over; answered HIGH with reads
left, a delay is owed. The answer, whatever it is, goes to the trace alone.
How the answers are supplied is the model's (log entry 9). -/
def Obligations.AcknowledgeMicroStep : Prop :=
  ∀ s : State, s.busy = true → s.upc < s.uprog.length →
    (s.ackdly = true → exec .uAckrd s = .next { s with ackdly := false, trace := s.trace ++ [.dly] })
    ∧ (s.ackdly = false →
        ∃ t a, exec .uAckrd s = .next t ∧ t.trace = s.trace ++ [.rd a] ∧ (∀ b l, s.lineIn = b :: l → a = b)
          ∧ t.ackdly = (a && decide (s.ackcnt + 1 ≠ s.cfg.ackSettleMax))
          ∧ t.ackcnt = (if t.ackdly then s.ackcnt + 1 else 0)
          ∧ (if t.ackdly then t.busy = true ∧ t.uprog = s.uprog ∧ t.upc = s.upc else SequencerMovedOn s t)
          ∧ t = { s with
              busy := t.busy, uprog := t.uprog, upc := t.upc, ackcnt := t.ackcnt, ackdly := t.ackdly
              lineIn := s.lineIn.tail, lineDraws := t.lineDraws, trace := t.trace })

/-- R29: with `busy = 0` the sequencer has no step: no micro-step runs.
The name of the refusal is the model's (log entry 28). -/
def Obligations.IdleSequencerHasNoStep : Prop :=
  ∀ (s : State) (u : MicroStep), s.busy = false → exec u.toInstr s = .refused .sequencerIdle

/-- R28, R29, C9: every step of a busy sequencer issues exactly one pin event, unless it would give the target a byte whose
effect is unspecified (U7).
The mark by which the model tells that is its own (log entry 13). -/
def Obligations.SequencerIssuesOneEventAStep : Prop :=
  ∀ s : State, s.EngineMoves → s.busy = true → s.upc < s.uprog.length →
    (s.uprog[s.upc]? = some (.clk true) → s.CanRaise) →
    ∃ t e, step s = .next t ∧ t.trace = s.trace ++ [e]

/-! ## The transport primitives -/

/-- R140: `START` issues `DIO(1) CLK(1) DLY DIO(0) DLY` and leaves the clock HIGH and the data line LOW; a target outside a
frame, at any line levels, sees a start condition and nothing else. It completes unless its clock edge would give the target a
byte whose effect is unspecified; then it is refused (U7).
The mark by which the model tells that, and the refusal's name, are its own (log entry 13). -/
def Obligations.StartMakesAStartCondition : Prop :=
  ∀ s : State,
    (s.CanRaise → ∃ t, exec .start s = .next t
      ∧ t = { s with clkO := true, dioO := false, target := t.target
                     trace := s.trace ++ [.dio true, .clk true, .dly, .dio false, .dly] }
      ∧ (s.target.inframe = false →
          t.target = { s.target with inframe := true, nbits := 0, cur := 0#8, nbyte := 0, kind := .none }))
    ∧ (¬ s.CanRaise → exec .start s = .refused .targetUnspecified)

/-- R141: `STOP` issues `DIO(0) CLK(1) DLY DIO(1) DLY` and leaves both lines HIGH; after an acknowledge phase, with the clock
HIGH and the data line LOW, the target sees a stop condition and nothing else. It completes unless its clock edge would give
the target a byte whose effect is unspecified; then it is refused (U7).
The mark by which the model tells that, and the refusal's name, are its own (log entry 13). -/
def Obligations.StopMakesAStopCondition : Prop :=
  ∀ s : State,
    (s.CanRaise → ∃ t, exec .stop s = .next t
      ∧ t = { s with clkO := true, dioO := true, target := t.target
                     trace := s.trace ++ [.dio false, .clk true, .dly, .dio true, .dly] }
      ∧ (s.clkO = true → s.dioO = false → t.target = { s.target with inframe := false }))
    ∧ (¬ s.CanRaise → exec .stop s = .refused .targetUnspecified)

/-- R142, R58: `SEND_BIT b` issues `CLK(0) DIO(b) DLY CLK(1) DLY` and leaves the clock HIGH and the data line at `b`; a target
inside a frame takes `b` as the next bit of its byte, at any line levels before; outside a frame it sees nothing. It completes
unless its clock edge would give the target a byte whose effect is unspecified (U7); then it is refused.
The mark by which the model tells that, and the refusal's name, are its own (log entry 13). -/
def Obligations.SendBitSendsOneBit : Prop :=
  ∀ (s : State) (b : Level),
    (s.target.Ready s.cfg → ∃ t, exec (.sendBit b) s = .next t
      ∧ t = { s with clkO := true, dioO := b, target := t.target
                     trace := s.trace ++ [.clk false, .dio b, .dly, .clk true, .dly] }
      ∧ (s.target.inframe = true → s.target.nbits < 8 →
          t.target.nbits = s.target.nbits + 1
          ∧ (∀ n, n < 8 → t.target.cur.getLsbD n = if n = s.target.nbits then b else s.target.cur.getLsbD n)
          ∧ t.target = { s.target with cur := t.target.cur, nbits := t.target.nbits })
      ∧ (s.target.inframe = false → t.target = s.target))
    ∧ (¬ s.target.Ready s.cfg → exec (.sendBit b) s = .refused .targetUnspecified)

/-- R143: `BIT_DELAY` is one `DLY()` event and nothing else. -/
def Obligations.BitDelayIsOneMark : Prop :=
  ∀ s : State, exec .bitDelay s = .next { s with trace := s.trace ++ [.dly] }

/-- R144, R191: `ACK_PHASE` issues `CLK(0) DIO(0) DLY CLK(1)`, then `k` reads with a delay
between two reads, `1 <= k <= ACK_SETTLE_MAX`; all reads but the last are answered HIGH, and fewer than `ACK_SETTLE_MAX` are
made only if the last is answered LOW. It leaves the clock HIGH and the data line LOW, and stores no answer. Whatever the
answers, it completes unless its clock edge would give the target a byte whose effect is unspecified; then it is refused (U7).
The mark by which the model tells that, and the refusal's name, are its own (log entry 13). -/
def Obligations.AckPhaseReadsUntilLowOrTheBound : Prop :=
  ∀ s : State, 1 ≤ s.cfg.ackSettleMax →
    (s.target.Ready s.cfg → ∃ t k a, exec .ackPhase s = .next t
      ∧ t.trace = s.trace ++ ackOpening ++ highReads k ++ [.rd a] ∧ k + 1 ≤ s.cfg.ackSettleMax
      ∧ (k + 1 < s.cfg.ackSettleMax → a = false)
      ∧ t = { s with
          clkO := true, dioO := false, trace := t.trace, lineIn := t.lineIn, lineDraws := t.lineDraws, target := t.target })
    ∧ (¬ s.target.Ready s.cfg → exec .ackPhase s = .refused .targetUnspecified)

/-- R144, vectors T14 to T18: with answers from the environment, `k - 1` of them HIGH and then a LOW, the phase makes `k`
reads; with all of them HIGH it makes `ACK_SETTLE_MAX`. The answers not needed are kept.
How the answers are supplied, and the mark of a target given an unspecified byte, are the model's (log entries 9 and 13). -/
def Obligations.AckPhaseTakesTheEnvironmentsAnswers : Prop :=
  ∀ (s : State) (rest : List Level), 1 ≤ s.cfg.ackSettleMax → s.target.Ready s.cfg →
    (∀ k, k < s.cfg.ackSettleMax → s.lineIn = List.replicate k true ++ false :: rest →
      ∃ t, exec .ackPhase s = .next t ∧ t.lineIn = rest
        ∧ t.trace = s.trace ++ ackOpening ++ highReads k ++ [.rd false])
    ∧ (s.lineIn = List.replicate s.cfg.ackSettleMax true ++ rest →
      ∃ t, exec .ackPhase s = .next t ∧ t.lineIn = rest
        ∧ t.trace = s.trace ++ ackOpening ++ highReads (s.cfg.ackSettleMax - 1) ++ [.rd true])

/-- R145, R50: `WRITE_BYTE_ACK x` issues eight bit cells, bit 0 first, then the acknowledge phase, whatever the answers.
It completes on a target outside a frame, which sees nothing, and on one inside a frame, at the start of a byte, to which R59
gives `x` an effect: that target receives exactly `x`. If R59 leaves the effect of `x` unspecified it is refused (U7).
The mark by which the model tells that, and the refusal's name, are its own (log entry 13). -/
def Obligations.WriteByteAckDeliversTheByte : Prop :=
  ∀ (s : State) (x : Byte), 1 ≤ s.cfg.ackSettleMax → s.target.lost = false →
    (s.target.inframe = true → s.target.nbits = 0) →
    ((s.target.inframe = true → s.target.Takes s.cfg x) →
      ∃ t k a, exec (.writeByteAck x) s = .next t
        ∧ t.trace = s.trace ++ cellEvents x [0, 1, 2, 3, 4, 5, 6, 7] ++ ackOpening ++ highReads k ++ [.rd a]
        ∧ k + 1 ≤ s.cfg.ackSettleMax
        ∧ t = { s with
            clkO := true, dioO := false, trace := t.trace, lineIn := t.lineIn, lineDraws := t.lineDraws
            target := if s.target.inframe then s.target.receive s.cfg x else s.target })
    ∧ (s.target.inframe = true → ¬ s.target.Takes s.cfg x → exec (.writeByteAck x) s = .refused .targetUnspecified)

/-! ## Wire bytes, as the target receives them -/

/-- R59, R83, R87, R88: the first byte of a frame is a command. `DATA_CMD` and `ADDR_CMD` set the kind of the frame, the latter
the address pointer to `p`; `DISPLAY_CTRL` sets the kind and `tctl`. No register is written and nothing else changes. -/
def Obligations.FirstByteOfAFrameIsACommand : Prop :=
  ∀ s : State, s.cfg.ok = true → s.target.inframe = true → s.target.nbyte = 0 → s.target.lost = false →
    exec .dataCmd s = .next { s with target := { s.target with nbits := 0, cur := 0#8, nbyte := 1, kind := .dataCmd } }
    ∧ (∀ p : BitVec 3, p.toNat ≤ 5 →
        exec (.addrCmd p) s
          = .next { s with target := { s.target with nbits := 0, cur := 0#8, nbyte := 1, kind := .addr, ptr := p.toNat } })
    ∧ (∀ (on : Bool) (level : BitVec 3),
        exec (.displayCtrl on level) s
          = .next { s with target := { s.target with
              nbits := 0, cur := 0#8, nbyte := 1, kind := .ctrl, tctl := bsNibble (bsPack s.cfg on level) } })

/-- R59, R51: a byte that is not first in an address frame goes to the register the pointer names, and the pointer moves on
by one; every other register, and everything else, keeps its value. -/
def Obligations.DataByteGoesToTheAddressedRegister : Prop :=
  ∀ (s : State) (d : Byte), s.target.inframe = true → s.target.nbyte ≠ 0 → s.target.kind = .addr → s.target.ptr ≤ 5 →
    s.target.lost = false →
    ∃ t, exec (.dataByte d) s = .next t
      ∧ t = { s with target := { s.target with
          disp := t.target.disp, ptr := s.target.ptr + 1, nbits := 0, cur := 0#8, nbyte := s.target.nbyte + 1 } }
      ∧ t.target.register s.target.ptr = some d
      ∧ ∀ a, a ≠ s.target.ptr → t.target.register a = s.target.register a

/-- R58, R59, R60, U7: outside a frame a wire byte has no effect; a byte that R59 leaves unspecified at its place (a first byte
that is none of the three commands, a second byte of a frame that is no address frame, or a byte with the pointer past 5) is
refused. The two address codes beyond 5 are such first bytes in the default parameters.
A byte outside a frame, and the name of the refusal, are the model's (log entries 13 and 21); the default wire bytes are
those of log entry 2. -/
def Obligations.WireBytesOutOfPlace : Prop :=
  (∀ (s : State) (i : Instr), i.layer = .wire → s.target.lost = false → s.target.inframe = false → exec i s = .next s)
  ∧ (∀ (s : State) (i : Instr) (first : Bool) (b : Byte), i.layer = .wire → encode s.cfg i = .wire first b →
      s.target.inframe = true → ¬ s.target.Takes s.cfg b → exec i s = .refused .targetUnspecified)
  ∧ ∀ (s : State) (p : BitVec 3), s.cfg = defaultConfig → s.target.inframe = true → s.target.nbyte = 0 → 5 < p.toNat →
      exec (.addrCmd p) s = .refused .targetUnspecified

/-! ## The encoder -/

/-- R122, R121: `ENCODE_DIGIT d`, for every natural number,
answers the pattern of `d mod 10`, with bit 7 clear, on `enc_out[7:0]` and 0 above; operands
equal modulo 10 get the same byte and others do not; nothing else changes. -/
def Obligations.EncodeDigitLooksUpTheDigit : Prop :=
  (∀ c input, decodeEnc c (.beat 0b00#2 input) = .encodeDigit (input % 2 ^ c.dWidth))
  ∧ ∀ (s : State) (d : Nat), s.cfg.ok = true →
    ∃ t b, exec (.encodeDigit d) s = .next t ∧ t = { s with encOut := BitVec.ofNat 32 b.toNat, encBytes := [b] }
      ∧ s.cfg.digitRom.toList[d % 10]? = some b ∧ b.getLsbD 7 = false
      ∧ ∀ (d' : Nat) (t' : State), exec (.encodeDigit d') s = .next t' →
          (t'.encBytes = t.encBytes ↔ d' % 10 = d % 10)

/-- R123: `ENCODE_NUMBER n` answers four bytes, the digits of `n mod 10000`, most significant first, leading zeros shown;
element `k` is on `enc_out[8k+7:8k]`; each is what `ENCODE_DIGIT` answers for its digit; nothing else changes. -/
def Obligations.EncodeNumberShowsFourDigits : Prop :=
  (∀ c input, decodeEnc c (.beat 0b01#2 input) = .encodeNumber (BitVec.ofNat 16 input))
  ∧ ∀ (s : State) (n : Number), s.cfg.ok = true →
    ∃ t b₀ b₁ b₂ b₃, exec (.encodeNumber n) s = .next t
      ∧ t = { s with encOut := t.encOut, encBytes := [b₀, b₁, b₂, b₃] }
      ∧ (∀ k b, [b₀, b₁, b₂, b₃][k]? = some b → t.encOut.extractLsb' (8 * k) 8 = b ∧ b.getLsbD 7 = false
          ∧ ∃ t', exec (.encodeDigit (n.toNat % 10000 / 10 ^ (3 - k) % 10)) s = .next t'
              ∧ t'.encBytes = [b])

/-- R127: `ENCODE_CHAR c` answers for every character code: the entry of the map, or `BLANK` for a character that is not
in it, which is what the space answers; a digit character answers what `ENCODE_DIGIT` does; nothing else changes. -/
def Obligations.EncodeCharIsTotal : Prop :=
  (∀ c input, decodeEnc c (.beat 0b10#2 input) = .encodeChar (input % 2 ^ c.charWidth))
  ∧ ∀ (s : State) (ch : CharCode), s.cfg.ok = true →
    ∃ t b, exec (.encodeChar ch) s = .next t ∧ t = { s with encOut := BitVec.ofNat 32 b.toNat, encBytes := [b] }
      ∧ (∀ e, s.cfg.charRom.lookup ch = some e → b = e)
      ∧ (s.cfg.charRom.lookup ch = none → b = Config.blank ∧ exec (.encodeChar 0x20) s = .next t)
      ∧ (∀ d : Nat, d ≤ 9 → ch = 0x30 + d → exec (.encodeDigit d) s = .next t)

/-- R128, R127, R125: `ENCODE_STRING s` answers one byte for each character, in order, each what `ENCODE_CHAR` answers, which is
`BLANK` for one that is no digit, no letter and none of the six symbols; the last stands on `enc_out[7:0]`; the empty string
answers the empty sequence; nothing of the engine or the target changes.
Which codes are letters is the model's reading of R125 (log entry 6). A string request, a beat as a string of one character,
and all beats served in one step are the model's form (log entry 24; the eager reading of the spec's decision D24). -/
def Obligations.EncodeStringMapsEncodeChar : Prop :=
  (∀ c input, decodeEnc c (.beat 0b11#2 input) = .encodeString [input % 2 ^ c.charWidth])
  ∧ (∀ c chars, (∀ ch ∈ chars, fits c.charWidth ch = true) → decodeEnc c (.string chars) = .encodeString chars)
  ∧ ∀ (s : State) (chars : List CharCode),
    ∃ t, exec (.encodeString chars) s = .next t
      ∧ t = { s with encOut := t.encOut, encBytes := t.encBytes }
      ∧ t.encBytes.length = chars.length
      ∧ (∀ (i : Nat) (ch : CharCode), chars[i]? = some ch →
          ∃ t' b, exec (.encodeChar ch) s = .next t' ∧ t'.encBytes = [b] ∧ t.encBytes[i]? = some b
            ∧ (s.cfg.ok = true → Config.recognisable ch = false → b = Config.blank))
      ∧ (∀ b, t.encBytes.getLast? = some b → t.encOut.setWidth 8 = b)

/-- R120, R130, R66: a lookup on the encoder's port never fails, in any state, and touches the encoder's port alone. The same
request under the same parameters answers the same bytes whatever the state, and, if it has a beat at all, the same `enc_out`.
That a step serves the port first, and so in every state, `rst` asserted or a launch premise broken among them, is the model's
choice (log entries 16 and 17); a string of no characters has no beat in its form of the port (log entry 24). -/
def Obligations.EncoderNeverFails : Prop :=
  ∀ (s : State) (request : EncRequest) (rest : List EncRequest), s.encIn = request :: rest →
    ∃ t, step s = .next t
      ∧ t = { s with encIn := rest, encOut := t.encOut, encBytes := t.encBytes }
      ∧ ∀ (s' : State) (rest' : List EncRequest), s'.encIn = request :: rest' → s'.cfg = s.cfg →
          ∃ t', step s' = .next t' ∧ t'.encBytes = t.encBytes
            ∧ (request ≠ .string [] → t'.encOut = t.encOut)

/-! ## Invariants and rules of the whole machine -/

/-- R20 to R29, R37, R57: the invariant holds after reset.
The target's fields at reset are the model's choices (log entries 11 and 12). -/
def Obligations.ResetMeetsTheInvariant : Prop := Inv State.reset

/-- R20 to R29, R54, R57, R59: every step keeps the invariant: legal parameters and `bs`, a sequencer whose position is in
range, an acknowledge counter below its bound, the display registers 0..5 each once, a program whose rest ends the target's
frame and gives it no byte whose effect is unspecified, latches equal to the last events.
That rest is followed with the mark of the model's own target (log entry 13). -/
def Obligations.EveryStepKeepsTheInvariant : Prop := ∀ s t : State, Inv s → step s = .next t → Inv t

/-- R28, R29, R30: from a state that meets the invariant a step never faults: the sequencer is never off its program.
The fault is the model's own (log entry 25). -/
def Obligations.InvariantRulesOutTheFault : Prop := ∀ (s : State) (f : Fault), Inv s → step s ≠ .fault f

/-- R59, U7: from a state that meets the invariant no step gives the target a byte whose effect R59 leaves unspecified: that
branch is "unreachable from the block's operations".
The name of the refusal is the model's (log entry 13). -/
def Obligations.NoByteIsUnspecified : Prop := ∀ s : State, Inv s → step s ≠ .refused .targetUnspecified

/-- R62, R28: a step only appends to the trace: nothing but `NEW` issues two events, everything else at most one. -/
def Obligations.TraceOnlyGrows : Prop :=
  ∀ s t : State, step s = .next t →
    ∃ events, t.trace = s.trace ++ events ∧ (events.length ≤ 1 ∨ events = [.clk false, .dio false])

/-- R26, R22: only `NEW`, `SET_DISPLAY_STATE` and `SET_BRIGHTNESS` write `bs`, and only on an idle block. -/
def Obligations.OnlyThreeOperationsWriteBrightness : Prop :=
  ∀ s t : State, step s = .next t → t.bs ≠ s.bs →
    s.encIn = [] ∧ s.busy = false
    ∧ (s.rst = true ∨ ∃ i rest, decodeHost s.cfg s.cmdIn = .ok (i, rest)
        ∧ (i = .new ∨ (∃ on, i = .setDisplayState on) ∨ ∃ level, i = .setBrightness level))

/-- R65, R235: no step changes a parameter, the ROM among them, or a launch premise.
That they stand in State is the model's form (log entries 1 and 17). -/
def Obligations.StepsKeepParametersAndPremises : Prop :=
  ∀ s t : State, step s = .next t → t.cfg = s.cfg ∧ t.env = s.env

/-- R84, R30: while an operation runs, no step takes a byte of the next command. -/
def Obligations.CommandBytesWaitWhileBusy : Prop :=
  ∀ s t : State, s.busy = true → step s = .next t → t.cmdIn = s.cmdIn

/-- R58, R64: the target sees pin writes alone: a step that issues none leaves the target as it was, so `SET_DISPLAY_STATE`,
`SET_BRIGHTNESS`, the lookups, reads and delays commit nothing. -/
def Obligations.TargetChangesOnlyWithAPinWrite : Prop :=
  ∀ s t : State, step s = .next t → pinWrites t.trace = pinWrites s.trace → t.target = s.target

/-! ## Whole operations -/

/-- R29: the sequencer's steps and the primitive's rule agree. A busy engine whose program continues with the string of a
primitive, with more to follow, runs it in some number of steps to the state the primitive gives, `upc` past the string.
A primitive run by itself is the model's form (log entry 20). -/
def Obligations.SequencerRunsAPrimitiveAsItsRule : Prop :=
  ∀ (s t : State) (i : Instr) (string : List MicroStep) (next : MicroStep) (rest : List MicroStep),
    s.EngineMoves → s.busy = true → 1 ≤ s.cfg.ackSettleMax → s.ackcnt = 0 → s.ackdly = false →
    encode s.cfg i = .prim (string.map encodeMicro) → s.uprog.drop s.upc = string ++ next :: rest →
    exec i s = .next t →
    ∃ k, runFor k s = .next { t with upc := s.upc + string.length }

/-- R29, R30, R168, R238: every host operation offered to an idle block runs to its end, in at most one step and
`435 + 2*9*(ACK_SETTLE_MAX - 1)` more, and ends in the state the big-step reading gives, with the block idle.
Acceptance in one step is the model's form (log entry 19). -/
def Obligations.HostOperationsRunToCompletion : Prop :=
  ∀ (s : State) (i : Instr) (rest : List Byte), Inv s → s.Offers i rest →
    ∃ k, k ≤ 1 + (435 + 18 * (s.cfg.ackSettleMax - 1))
      ∧ runFor k s = .next (completed i { s with cmdIn := rest })
      ∧ (completed i { s with cmdIn := rest }).busy = false

/-- R163, R170, R91, R92: `WRITE_SEGMENTS_RAW` with `N >= 1`, offered to an idle block, runs to its end whatever the reads
answer. Then register `p + i` holds `bytes[i]` for `i < M` and every other register what it
held; `tctl` is `bs[3:0]`; both lines are HIGH; `bs` is unchanged. -/
def Obligations.WriteSegmentsRawReachesTheRegisters : Prop :=
  ∀ (s : State) (position : Nat) (bytes rest : List Byte) (p m : Nat),
    Inv s → s.Offers (.writeSegmentsRaw position bytes) rest → bytes ≠ [] →
    p = position % 6 → m = min bytes.length (6 - p) →
    ∃ k t, runFor k s = .next t ∧ t.busy = false ∧ t.bs = s.bs ∧ t.clkO = true ∧ t.dioO = true ∧ t.cmdIn = rest
      ∧ t.target.inframe = false ∧ t.target.lost = false ∧ t.target.tctl = s.bs.setWidth 4
      ∧ (∀ i b, i < m → bytes[i]? = some b → t.target.register (p + i) = some b)
      ∧ (∀ a, a < p ∨ p + m ≤ a → t.target.register a = s.target.register a)

/-- R165, R64, R170: `WRITE_DISPLAY_STATE`, offered to an idle block, runs to its end and commits
`bs`: `tctl` is `bs[3:0]`, every register holds what it held, both lines are HIGH, `bs` is unchanged. -/
def Obligations.WriteDisplayStateCommits : Prop :=
  ∀ (s : State) (rest : List Byte), Inv s → s.Offers .writeDisplayState rest →
    ∃ k t, runFor k s = .next t ∧ t.busy = false ∧ t.bs = s.bs ∧ t.clkO = true ∧ t.dioO = true ∧ t.cmdIn = rest
      ∧ t.target.inframe = false ∧ t.target.lost = false ∧ t.target.tctl = s.bs.setWidth 4
      ∧ ∀ a, t.target.register a = s.target.register a

/-- R191, R27, R232: the answers to the reads change nothing but the trace. Two idle states that differ in the answers
alone run the same operation to ends that differ in the answers left and in the trace alone.
How the answers are supplied is the model's (log entry 9). -/
def Obligations.ReadAnswersReachOnlyTheTrace : Prop :=
  ∀ (s : State) (i : Instr) (rest : List Byte) (answers : List Level) (draws : Nat), Inv s → s.Offers i rest →
    ∃ k k' t t', runFor k s = .next t ∧ runFor k' { s with lineIn := answers, lineDraws := draws } = .next t'
      ∧ t.busy = false ∧ t.cmdIn = rest
      ∧ t' = { t with lineIn := t'.lineIn, lineDraws := t'.lineDraws, trace := t'.trace }

/-- R163, R149, R238: the events of a write of `M` bytes, whatever the answers: `99 + 27*M` pin writes; `K` reads with
`3 + M <= K <= (3 + M) * ACK_SETTLE_MAX`; `60 + 16*M + K` delays. -/
def Obligations.EventCountsOfAWrite : Prop :=
  ∀ (s : State) (position : Nat) (bytes : List Byte) (m : Nat), 1 ≤ s.cfg.ackSettleMax → bytes ≠ [] →
    m = min bytes.length (6 - position % 6) →
    ∃ events, (completed (.writeSegmentsRaw position bytes) s).trace = s.trace ++ events
      ∧ pinWrites events = 99 + 27 * m
      ∧ 3 + m ≤ reads events ∧ reads events ≤ (3 + m) * s.cfg.ackSettleMax
      ∧ delays events = 60 + 16 * m + reads events

/-- R146: in the events of every host operation the clock is HIGH whenever the line is read. -/
def Obligations.ClockIsHighAtEveryRead : Prop :=
  ∀ (s : State) (i : Instr), 1 ≤ s.cfg.ackSettleMax →
    ∃ events, (completed i s).trace = s.trace ++ events ∧ readsClockHigh s.clkO events = true
end

