-- ==== Sys2Proof/Laws/Decode.lean ====
section
/-! SUPPORT. What each layer's decoder can answer, and the lengths of the strings of the transport primitives. -/

namespace Sys2Proof

theorem decodeSegments_layer {c : Config} {bytes rest : List Byte} {i : Instr}
    (h : decodeSegments c bytes = .ok (i, rest)) : i.layer = .host := by
  unfold decodeSegments at h
  (repeat' split at h) <;> simp at h
  obtain ⟨rfl, -⟩ := h; rfl

theorem decodeSegment_layer {c : Config} {bytes rest : List Byte} {i : Instr}
    (h : decodeSegment c bytes = .ok (i, rest)) : i.layer = .host := by
  unfold decodeSegment at h
  (repeat' split at h) <;> simp at h
  obtain ⟨rfl, -⟩ := h; rfl

/-- A command on the host's port is a host operation (R86). -/
theorem decodeCommand_layer {c : Config} {op : Byte} {bytes rest : List Byte} {i : Instr}
    (h : decodeCommand c op bytes = .ok (i, rest)) : i.layer = .host := by
  unfold decodeCommand at h
  split at h
  case h_4 => exact decodeSegments_layer h
  case h_5 => exact decodeSegment_layer h
  all_goals (repeat' split at h) <;> simp at h <;> (try obtain ⟨rfl, -⟩ := h) <;> rfl

theorem decodeHost_layer {c : Config} {bytes rest : List Byte} {i : Instr} (h : decodeHost c bytes = .ok (i, rest)) :
    i.layer = .host := by
  cases bytes with
  | nil => cases h
  | cons op bytes => exact decodeCommand_layer h

/-- An operand is refused for want of bytes alone. -/
theorem decodeSegments_error {c : Config} {bytes : List Byte} {r : Reject} (h : decodeSegments c bytes = .error r) :
    r = .incomplete := by
  unfold decodeSegments at h
  (repeat' split at h) <;> simp at h <;> exact h.symm

theorem decodeSegment_error {c : Config} {bytes : List Byte} {r : Reject} (h : decodeSegment c bytes = .error r) :
    r = .incomplete := by
  unfold decodeSegment at h
  (repeat' split at h) <;> simp at h <;> exact h.symm

/-- The opcodes `0x01..0x07` are never called reserved. -/
theorem decodeCommand_reserved {c : Config} {op op' : Byte} {bytes : List Byte}
    (h : decodeCommand c op bytes = .error (.reservedOpcode op')) : op' = op ∧ (op.toNat = 0 ∨ 8 ≤ op.toNat) := by
  unfold decodeCommand at h
  split at h
  case h_8 h1 h2 h3 h4 h5 h6 h7 =>
    simp only [imp_false] at h1 h2 h3 h4 h5 h6 h7
    simp only [Except.error.injEq, Reject.reservedOpcode.injEq] at h
    exact ⟨h.symm, by omega⟩
  case h_4 => cases decodeSegments_error h
  case h_5 => cases decodeSegment_error h
  all_goals (repeat' split at h) <;> simp at h

@[simp] theorem fits_iff (width v : Nat) : fits width v = true ↔ v < 2 ^ width := by simp [fits]

/-- The low bytes of a number give it back when it fits them (R85). -/
theorem natOfBytes_bytesOfNat (n v : Nat) : natOfBytes (bytesOfNat n v) = v % 256 ^ n := by
  induction n generalizing v with
  | zero => simp [bytesOfNat, natOfBytes, Nat.mod_one]
  | succ n ih =>
    simp only [bytesOfNat, natOfBytes, ih, BitVec.toNat_ofNat]
    show v % 256 + 256 * (v / 256 % 256 ^ n) = _
    rw [Nat.pow_succ', Nat.mod_mul]

@[simp] theorem bytesOfNat_length (n v : Nat) : (bytesOfNat n v).length = n := by
  induction n generalizing v with
  | zero => rfl
  | succ n ih => simp [bytesOfNat, ih]

/-- An operand that fits its width is taken from the bytes that hold it, whatever follows them (R85). -/
theorem takeOperand_bytesOfNat (width v : Nat) (rest : List Byte) (h : v < 2 ^ width) :
    takeOperand width (bytesOfNat (operandBytes width) v ++ rest) = some (v, rest) := by
  have hw : 2 ^ width ≤ 256 ^ operandBytes width := by
    rw [show (256 : Nat) = 2 ^ 8 from rfl, ← Nat.pow_mul]
    exact Nat.pow_le_pow_right (by decide) (by unfold operandBytes; omega)
  simp [takeOperand, natOfBytes_bytesOfNat, Nat.mod_eq_of_lt (Nat.lt_of_lt_of_le h hw), Nat.mod_eq_of_lt h]

/-- A request on the encoder's port is a lookup (R86). -/
theorem decodeEnc_layer (c : Config) (request : EncRequest) : (decodeEnc c request).layer = .enc := by
  cases request with
  | beat sel input => unfold decodeEnc; dsimp only; split <;> rfl
  | string chars => rfl

/-- A micro-step is a micro-step (R96). -/
theorem toInstr_layer (u : MicroStep) : u.toInstr.layer = .micro := by
  cases u with
  | clk v => cases v <;> rfl
  | dio v => cases v <;> rfl
  | dly => rfl
  | ackrd => rfl

@[simp] theorem startString_length : startString.length = 5 := rfl
@[simp] theorem stopString_length : stopString.length = 5 := rfl
@[simp] theorem sendBitString_length (b : Level) : (sendBitString b).length = 5 := rfl
@[simp] theorem ackPhaseString_length : ackPhaseString.length = 5 := rfl
@[simp] theorem writeByteString_length (x : Byte) : (writeByteString x).length = 45 := rfl

namespace Machine

/-- 45 micro-steps a byte (R145). -/
@[simp] theorem bytesString_length (bytes : List Byte) : (bytesString bytes).length = 45 * bytes.length := by
  induction bytes with
  | nil => rfl
  | cons b rest ih => simp [bytesString, ih]; omega

/-- A frame of `n` bytes has `10 + 45*n` micro-steps (R149). -/
@[simp] theorem frameString_length (bytes : List Byte) : (frameString bytes).length = 10 + 45 * bytes.length := by
  simp [frameString]; omega

/-- The strings of the bytes of a frame, as a map. -/
theorem bytesString_eq (bytes : List Byte) : bytesString bytes = (bytes.map writeByteString).flatten := by
  induction bytes with
  | nil => rfl
  | cons b rest ih => simp [bytesString, ih]

end Machine

end Sys2Proof
end

