-- ==== Sys2Proof/Laws/State.lean ====
section
/-! SUPPORT. What each update of the state gives in each field: one lemma per field per update, so that no later proof unfolds a
record update. -/

namespace Sys2Proof.Machine

/-! ## driveClk: `CLK(v)` -/

@[simp] theorem State.driveClk_bs (s : State) (v : Level) : (s.driveClk v).bs = s.bs := rfl
@[simp] theorem State.driveClk_clkO (s : State) (v : Level) : (s.driveClk v).clkO = v := rfl
@[simp] theorem State.driveClk_dioO (s : State) (v : Level) : (s.driveClk v).dioO = s.dioO := rfl
@[simp] theorem State.driveClk_busy (s : State) (v : Level) : (s.driveClk v).busy = s.busy := rfl
@[simp] theorem State.driveClk_uprog (s : State) (v : Level) : (s.driveClk v).uprog = s.uprog := rfl
@[simp] theorem State.driveClk_upc (s : State) (v : Level) : (s.driveClk v).upc = s.upc := rfl
@[simp] theorem State.driveClk_ackcnt (s : State) (v : Level) : (s.driveClk v).ackcnt = s.ackcnt := rfl
@[simp] theorem State.driveClk_ackdly (s : State) (v : Level) : (s.driveClk v).ackdly = s.ackdly := rfl
@[simp] theorem State.driveClk_target (s : State) (v : Level) : (s.driveClk v).target = s.target.onClk s.cfg s.clkO s.dioO v := rfl
@[simp] theorem State.driveClk_cfg (s : State) (v : Level) : (s.driveClk v).cfg = s.cfg := rfl
@[simp] theorem State.driveClk_env (s : State) (v : Level) : (s.driveClk v).env = s.env := rfl
@[simp] theorem State.driveClk_rst (s : State) (v : Level) : (s.driveClk v).rst = s.rst := rfl
@[simp] theorem State.driveClk_cmdIn (s : State) (v : Level) : (s.driveClk v).cmdIn = s.cmdIn := rfl
@[simp] theorem State.driveClk_encIn (s : State) (v : Level) : (s.driveClk v).encIn = s.encIn := rfl
@[simp] theorem State.driveClk_encOut (s : State) (v : Level) : (s.driveClk v).encOut = s.encOut := rfl
@[simp] theorem State.driveClk_encBytes (s : State) (v : Level) : (s.driveClk v).encBytes = s.encBytes := rfl
@[simp] theorem State.driveClk_lineIn (s : State) (v : Level) : (s.driveClk v).lineIn = s.lineIn := rfl
@[simp] theorem State.driveClk_lineDraws (s : State) (v : Level) : (s.driveClk v).lineDraws = s.lineDraws := rfl
@[simp] theorem State.driveClk_trace (s : State) (v : Level) : (s.driveClk v).trace = s.trace ++ [.clk v] := rfl

/-! ## driveDio: `DIO(v)` -/

@[simp] theorem State.driveDio_bs (s : State) (v : Level) : (s.driveDio v).bs = s.bs := rfl
@[simp] theorem State.driveDio_clkO (s : State) (v : Level) : (s.driveDio v).clkO = s.clkO := rfl
@[simp] theorem State.driveDio_dioO (s : State) (v : Level) : (s.driveDio v).dioO = v := rfl
@[simp] theorem State.driveDio_busy (s : State) (v : Level) : (s.driveDio v).busy = s.busy := rfl
@[simp] theorem State.driveDio_uprog (s : State) (v : Level) : (s.driveDio v).uprog = s.uprog := rfl
@[simp] theorem State.driveDio_upc (s : State) (v : Level) : (s.driveDio v).upc = s.upc := rfl
@[simp] theorem State.driveDio_ackcnt (s : State) (v : Level) : (s.driveDio v).ackcnt = s.ackcnt := rfl
@[simp] theorem State.driveDio_ackdly (s : State) (v : Level) : (s.driveDio v).ackdly = s.ackdly := rfl
@[simp] theorem State.driveDio_target (s : State) (v : Level) : (s.driveDio v).target = s.target.onDio s.clkO s.dioO v := rfl
@[simp] theorem State.driveDio_cfg (s : State) (v : Level) : (s.driveDio v).cfg = s.cfg := rfl
@[simp] theorem State.driveDio_env (s : State) (v : Level) : (s.driveDio v).env = s.env := rfl
@[simp] theorem State.driveDio_rst (s : State) (v : Level) : (s.driveDio v).rst = s.rst := rfl
@[simp] theorem State.driveDio_cmdIn (s : State) (v : Level) : (s.driveDio v).cmdIn = s.cmdIn := rfl
@[simp] theorem State.driveDio_encIn (s : State) (v : Level) : (s.driveDio v).encIn = s.encIn := rfl
@[simp] theorem State.driveDio_encOut (s : State) (v : Level) : (s.driveDio v).encOut = s.encOut := rfl
@[simp] theorem State.driveDio_encBytes (s : State) (v : Level) : (s.driveDio v).encBytes = s.encBytes := rfl
@[simp] theorem State.driveDio_lineIn (s : State) (v : Level) : (s.driveDio v).lineIn = s.lineIn := rfl
@[simp] theorem State.driveDio_lineDraws (s : State) (v : Level) : (s.driveDio v).lineDraws = s.lineDraws := rfl
@[simp] theorem State.driveDio_trace (s : State) (v : Level) : (s.driveDio v).trace = s.trace ++ [.dio v] := rfl

/-! ## delay: `DLY()` -/

@[simp] theorem State.delay_bs (s : State) : (s.delay).bs = s.bs := rfl
@[simp] theorem State.delay_clkO (s : State) : (s.delay).clkO = s.clkO := rfl
@[simp] theorem State.delay_dioO (s : State) : (s.delay).dioO = s.dioO := rfl
@[simp] theorem State.delay_busy (s : State) : (s.delay).busy = s.busy := rfl
@[simp] theorem State.delay_uprog (s : State) : (s.delay).uprog = s.uprog := rfl
@[simp] theorem State.delay_upc (s : State) : (s.delay).upc = s.upc := rfl
@[simp] theorem State.delay_ackcnt (s : State) : (s.delay).ackcnt = s.ackcnt := rfl
@[simp] theorem State.delay_ackdly (s : State) : (s.delay).ackdly = s.ackdly := rfl
@[simp] theorem State.delay_target (s : State) : (s.delay).target = s.target := rfl
@[simp] theorem State.delay_cfg (s : State) : (s.delay).cfg = s.cfg := rfl
@[simp] theorem State.delay_env (s : State) : (s.delay).env = s.env := rfl
@[simp] theorem State.delay_rst (s : State) : (s.delay).rst = s.rst := rfl
@[simp] theorem State.delay_cmdIn (s : State) : (s.delay).cmdIn = s.cmdIn := rfl
@[simp] theorem State.delay_encIn (s : State) : (s.delay).encIn = s.encIn := rfl
@[simp] theorem State.delay_encOut (s : State) : (s.delay).encOut = s.encOut := rfl
@[simp] theorem State.delay_encBytes (s : State) : (s.delay).encBytes = s.encBytes := rfl
@[simp] theorem State.delay_lineIn (s : State) : (s.delay).lineIn = s.lineIn := rfl
@[simp] theorem State.delay_lineDraws (s : State) : (s.delay).lineDraws = s.lineDraws := rfl
@[simp] theorem State.delay_trace (s : State) : (s.delay).trace = s.trace ++ [.dly] := rfl

/-! ## afterRead: `RD()` -/

@[simp] theorem State.afterRead_bs (s : State) : (s.afterRead).bs = s.bs := rfl
@[simp] theorem State.afterRead_clkO (s : State) : (s.afterRead).clkO = s.clkO := rfl
@[simp] theorem State.afterRead_dioO (s : State) : (s.afterRead).dioO = s.dioO := rfl
@[simp] theorem State.afterRead_busy (s : State) : (s.afterRead).busy = s.busy := rfl
@[simp] theorem State.afterRead_uprog (s : State) : (s.afterRead).uprog = s.uprog := rfl
@[simp] theorem State.afterRead_upc (s : State) : (s.afterRead).upc = s.upc := rfl
@[simp] theorem State.afterRead_ackcnt (s : State) : (s.afterRead).ackcnt = s.ackcnt := rfl
@[simp] theorem State.afterRead_ackdly (s : State) : (s.afterRead).ackdly = s.ackdly := rfl
@[simp] theorem State.afterRead_target (s : State) : (s.afterRead).target = s.target := rfl
@[simp] theorem State.afterRead_cfg (s : State) : (s.afterRead).cfg = s.cfg := rfl
@[simp] theorem State.afterRead_env (s : State) : (s.afterRead).env = s.env := rfl
@[simp] theorem State.afterRead_rst (s : State) : (s.afterRead).rst = s.rst := rfl
@[simp] theorem State.afterRead_cmdIn (s : State) : (s.afterRead).cmdIn = s.cmdIn := rfl
@[simp] theorem State.afterRead_encIn (s : State) : (s.afterRead).encIn = s.encIn := rfl
@[simp] theorem State.afterRead_encOut (s : State) : (s.afterRead).encOut = s.encOut := rfl
@[simp] theorem State.afterRead_encBytes (s : State) : (s.afterRead).encBytes = s.encBytes := rfl
@[simp] theorem State.afterRead_lineIn (s : State) : (s.afterRead).lineIn = s.lineIn.tail := rfl
@[simp] theorem State.afterRead_lineDraws (s : State) : (s.afterRead).lineDraws = if s.lineIn = [] then s.lineDraws + 1 else s.lineDraws := rfl
@[simp] theorem State.afterRead_trace (s : State) : (s.afterRead).trace = s.trace ++ [.rd s.lineLevel] := rfl

/-! ## load: accepting an operation -/

@[simp] theorem State.load_bs (s : State) (p : List MicroStep) : (s.load p).bs = s.bs := rfl
@[simp] theorem State.load_clkO (s : State) (p : List MicroStep) : (s.load p).clkO = s.clkO := rfl
@[simp] theorem State.load_dioO (s : State) (p : List MicroStep) : (s.load p).dioO = s.dioO := rfl
@[simp] theorem State.load_busy (s : State) (p : List MicroStep) : (s.load p).busy = true := rfl
@[simp] theorem State.load_uprog (s : State) (p : List MicroStep) : (s.load p).uprog = p := rfl
@[simp] theorem State.load_upc (s : State) (p : List MicroStep) : (s.load p).upc = 0 := rfl
@[simp] theorem State.load_ackcnt (s : State) (p : List MicroStep) : (s.load p).ackcnt = s.ackcnt := rfl
@[simp] theorem State.load_ackdly (s : State) (p : List MicroStep) : (s.load p).ackdly = s.ackdly := rfl
@[simp] theorem State.load_target (s : State) (p : List MicroStep) : (s.load p).target = s.target := rfl
@[simp] theorem State.load_cfg (s : State) (p : List MicroStep) : (s.load p).cfg = s.cfg := rfl
@[simp] theorem State.load_env (s : State) (p : List MicroStep) : (s.load p).env = s.env := rfl
@[simp] theorem State.load_rst (s : State) (p : List MicroStep) : (s.load p).rst = s.rst := rfl
@[simp] theorem State.load_cmdIn (s : State) (p : List MicroStep) : (s.load p).cmdIn = s.cmdIn := rfl
@[simp] theorem State.load_encIn (s : State) (p : List MicroStep) : (s.load p).encIn = s.encIn := rfl
@[simp] theorem State.load_encOut (s : State) (p : List MicroStep) : (s.load p).encOut = s.encOut := rfl
@[simp] theorem State.load_encBytes (s : State) (p : List MicroStep) : (s.load p).encBytes = s.encBytes := rfl
@[simp] theorem State.load_lineIn (s : State) (p : List MicroStep) : (s.load p).lineIn = s.lineIn := rfl
@[simp] theorem State.load_lineDraws (s : State) (p : List MicroStep) : (s.load p).lineDraws = s.lineDraws := rfl
@[simp] theorem State.load_trace (s : State) (p : List MicroStep) : (s.load p).trace = s.trace := rfl

/-! ## advance: `upc <- upc + 1` -/

@[simp] theorem State.advance_bs (s : State) : (s.advance).bs = s.bs := rfl
@[simp] theorem State.advance_clkO (s : State) : (s.advance).clkO = s.clkO := rfl
@[simp] theorem State.advance_dioO (s : State) : (s.advance).dioO = s.dioO := rfl
@[simp] theorem State.advance_busy (s : State) : (s.advance).busy = s.busy := rfl
@[simp] theorem State.advance_uprog (s : State) : (s.advance).uprog = s.uprog := rfl
@[simp] theorem State.advance_upc (s : State) : (s.advance).upc = s.upc + 1 := rfl
@[simp] theorem State.advance_ackcnt (s : State) : (s.advance).ackcnt = s.ackcnt := rfl
@[simp] theorem State.advance_ackdly (s : State) : (s.advance).ackdly = s.ackdly := rfl
@[simp] theorem State.advance_target (s : State) : (s.advance).target = s.target := rfl
@[simp] theorem State.advance_cfg (s : State) : (s.advance).cfg = s.cfg := rfl
@[simp] theorem State.advance_env (s : State) : (s.advance).env = s.env := rfl
@[simp] theorem State.advance_rst (s : State) : (s.advance).rst = s.rst := rfl
@[simp] theorem State.advance_cmdIn (s : State) : (s.advance).cmdIn = s.cmdIn := rfl
@[simp] theorem State.advance_encIn (s : State) : (s.advance).encIn = s.encIn := rfl
@[simp] theorem State.advance_encOut (s : State) : (s.advance).encOut = s.encOut := rfl
@[simp] theorem State.advance_encBytes (s : State) : (s.advance).encBytes = s.encBytes := rfl
@[simp] theorem State.advance_lineIn (s : State) : (s.advance).lineIn = s.lineIn := rfl
@[simp] theorem State.advance_lineDraws (s : State) : (s.advance).lineDraws = s.lineDraws := rfl
@[simp] theorem State.advance_trace (s : State) : (s.advance).trace = s.trace := rfl

/-! ## answer: a lookup's answer -/

@[simp] theorem State.answer_bs (s : State) (o : BitVec 32) (b : List Byte) : (s.answer o b).bs = s.bs := rfl
@[simp] theorem State.answer_clkO (s : State) (o : BitVec 32) (b : List Byte) : (s.answer o b).clkO = s.clkO := rfl
@[simp] theorem State.answer_dioO (s : State) (o : BitVec 32) (b : List Byte) : (s.answer o b).dioO = s.dioO := rfl
@[simp] theorem State.answer_busy (s : State) (o : BitVec 32) (b : List Byte) : (s.answer o b).busy = s.busy := rfl
@[simp] theorem State.answer_uprog (s : State) (o : BitVec 32) (b : List Byte) : (s.answer o b).uprog = s.uprog := rfl
@[simp] theorem State.answer_upc (s : State) (o : BitVec 32) (b : List Byte) : (s.answer o b).upc = s.upc := rfl
@[simp] theorem State.answer_ackcnt (s : State) (o : BitVec 32) (b : List Byte) : (s.answer o b).ackcnt = s.ackcnt := rfl
@[simp] theorem State.answer_ackdly (s : State) (o : BitVec 32) (b : List Byte) : (s.answer o b).ackdly = s.ackdly := rfl
@[simp] theorem State.answer_target (s : State) (o : BitVec 32) (b : List Byte) : (s.answer o b).target = s.target := rfl
@[simp] theorem State.answer_cfg (s : State) (o : BitVec 32) (b : List Byte) : (s.answer o b).cfg = s.cfg := rfl
@[simp] theorem State.answer_env (s : State) (o : BitVec 32) (b : List Byte) : (s.answer o b).env = s.env := rfl
@[simp] theorem State.answer_rst (s : State) (o : BitVec 32) (b : List Byte) : (s.answer o b).rst = s.rst := rfl
@[simp] theorem State.answer_cmdIn (s : State) (o : BitVec 32) (b : List Byte) : (s.answer o b).cmdIn = s.cmdIn := rfl
@[simp] theorem State.answer_encIn (s : State) (o : BitVec 32) (b : List Byte) : (s.answer o b).encIn = s.encIn := rfl
@[simp] theorem State.answer_encOut (s : State) (o : BitVec 32) (b : List Byte) : (s.answer o b).encOut = o := rfl
@[simp] theorem State.answer_encBytes (s : State) (o : BitVec 32) (b : List Byte) : (s.answer o b).encBytes = b := rfl
@[simp] theorem State.answer_lineIn (s : State) (o : BitVec 32) (b : List Byte) : (s.answer o b).lineIn = s.lineIn := rfl
@[simp] theorem State.answer_lineDraws (s : State) (o : BitVec 32) (b : List Byte) : (s.answer o b).lineDraws = s.lineDraws := rfl
@[simp] theorem State.answer_trace (s : State) (o : BitVec 32) (b : List Byte) : (s.answer o b).trace = s.trace := rfl

/-! ## stringBeat: one beat of a string -/

@[simp] theorem State.stringBeat_bs (s : State) (ch : CharCode) (b : Byte) :
    (s.stringBeat ch b).bs = s.bs := rfl
@[simp] theorem State.stringBeat_clkO (s : State) (ch : CharCode) (b : Byte) :
    (s.stringBeat ch b).clkO = s.clkO := rfl
@[simp] theorem State.stringBeat_dioO (s : State) (ch : CharCode) (b : Byte) :
    (s.stringBeat ch b).dioO = s.dioO := rfl
@[simp] theorem State.stringBeat_busy (s : State) (ch : CharCode) (b : Byte) :
    (s.stringBeat ch b).busy = s.busy := rfl
@[simp] theorem State.stringBeat_uprog (s : State) (ch : CharCode) (b : Byte) :
    (s.stringBeat ch b).uprog = s.uprog := rfl
@[simp] theorem State.stringBeat_upc (s : State) (ch : CharCode) (b : Byte) :
    (s.stringBeat ch b).upc = s.upc := rfl
@[simp] theorem State.stringBeat_ackcnt (s : State) (ch : CharCode) (b : Byte) :
    (s.stringBeat ch b).ackcnt = s.ackcnt := rfl
@[simp] theorem State.stringBeat_ackdly (s : State) (ch : CharCode) (b : Byte) :
    (s.stringBeat ch b).ackdly = s.ackdly := rfl
@[simp] theorem State.stringBeat_target (s : State) (ch : CharCode) (b : Byte) :
    (s.stringBeat ch b).target = s.target := rfl
@[simp] theorem State.stringBeat_cfg (s : State) (ch : CharCode) (b : Byte) :
    (s.stringBeat ch b).cfg = s.cfg := rfl
@[simp] theorem State.stringBeat_env (s : State) (ch : CharCode) (b : Byte) :
    (s.stringBeat ch b).env = s.env := rfl
@[simp] theorem State.stringBeat_rst (s : State) (ch : CharCode) (b : Byte) :
    (s.stringBeat ch b).rst = s.rst := rfl
@[simp] theorem State.stringBeat_cmdIn (s : State) (ch : CharCode) (b : Byte) :
    (s.stringBeat ch b).cmdIn = s.cmdIn := rfl
@[simp] theorem State.stringBeat_encIn (s : State) (ch : CharCode) (b : Byte) :
    (s.stringBeat ch b).encIn = s.encIn := rfl
@[simp] theorem State.stringBeat_encOut (s : State) (ch : CharCode) (b : Byte) :
    (s.stringBeat ch b).encOut = Config.freeEncHigh ch ++ b := rfl
@[simp] theorem State.stringBeat_encBytes (s : State) (ch : CharCode) (b : Byte) :
    (s.stringBeat ch b).encBytes = s.encBytes := rfl
@[simp] theorem State.stringBeat_lineIn (s : State) (ch : CharCode) (b : Byte) :
    (s.stringBeat ch b).lineIn = s.lineIn := rfl
@[simp] theorem State.stringBeat_lineDraws (s : State) (ch : CharCode) (b : Byte) :
    (s.stringBeat ch b).lineDraws = s.lineDraws := rfl
@[simp] theorem State.stringBeat_trace (s : State) (ch : CharCode) (b : Byte) :
    (s.stringBeat ch b).trace = s.trace := rfl

/-! ## finish: the end of the sequencer's step (R29) -/

@[simp] theorem State.finish_bs (s : State) : s.finish.bs = s.bs := by
  unfold State.finish; split <;> rfl
@[simp] theorem State.finish_clkO (s : State) : s.finish.clkO = s.clkO := by
  unfold State.finish; split <;> rfl
@[simp] theorem State.finish_dioO (s : State) : s.finish.dioO = s.dioO := by
  unfold State.finish; split <;> rfl
@[simp] theorem State.finish_busy (s : State) : s.finish.busy = if s.upc = s.uprog.length then false else s.busy := by
  unfold State.finish; split <;> rfl
@[simp] theorem State.finish_uprog (s : State) : s.finish.uprog = if s.upc = s.uprog.length then [] else s.uprog := by
  unfold State.finish; split <;> rfl
@[simp] theorem State.finish_upc (s : State) : s.finish.upc = if s.upc = s.uprog.length then 0 else s.upc := by
  unfold State.finish; split <;> rfl
@[simp] theorem State.finish_ackcnt (s : State) : s.finish.ackcnt = s.ackcnt := by
  unfold State.finish; split <;> rfl
@[simp] theorem State.finish_ackdly (s : State) : s.finish.ackdly = s.ackdly := by
  unfold State.finish; split <;> rfl
@[simp] theorem State.finish_target (s : State) : s.finish.target = s.target := by
  unfold State.finish; split <;> rfl
@[simp] theorem State.finish_cfg (s : State) : s.finish.cfg = s.cfg := by
  unfold State.finish; split <;> rfl
@[simp] theorem State.finish_env (s : State) : s.finish.env = s.env := by
  unfold State.finish; split <;> rfl
@[simp] theorem State.finish_rst (s : State) : s.finish.rst = s.rst := by
  unfold State.finish; split <;> rfl
@[simp] theorem State.finish_cmdIn (s : State) : s.finish.cmdIn = s.cmdIn := by
  unfold State.finish; split <;> rfl
@[simp] theorem State.finish_encIn (s : State) : s.finish.encIn = s.encIn := by
  unfold State.finish; split <;> rfl
@[simp] theorem State.finish_encOut (s : State) : s.finish.encOut = s.encOut := by
  unfold State.finish; split <;> rfl
@[simp] theorem State.finish_encBytes (s : State) : s.finish.encBytes = s.encBytes := by
  unfold State.finish; split <;> rfl
@[simp] theorem State.finish_lineIn (s : State) : s.finish.lineIn = s.lineIn := by
  unfold State.finish; split <;> rfl
@[simp] theorem State.finish_lineDraws (s : State) : s.finish.lineDraws = s.lineDraws := by
  unfold State.finish; split <;> rfl
@[simp] theorem State.finish_trace (s : State) : s.finish.trace = s.trace := by
  unfold State.finish; split <;> rfl

/-- The sequencer goes on: nothing to do at the end of a step that is not the program's last (R29). -/
theorem State.finish_of_lt {s : State} (h : s.upc < s.uprog.length) : s.finish = s := by
  unfold State.finish; split
  · omega
  · rfl

/-- The program's last step: idle (R29). -/
theorem State.finish_of_eq {s : State} (h : s.upc = s.uprog.length) :
    s.finish = { s with busy := false, uprog := [], upc := 0 } := by
  unfold State.finish; simp [h]

end Sys2Proof.Machine
end

