-- ==== Sys2Proof/Laws/Memory.lean ====
section
/-! SUPPORT. The display registers: a read after a write, and the canonical form kept by every memory operation. -/

namespace Sys2Proof.Machine

@[simp] theorem Memory.read_nil (a : Nat) : Memory.read [] a = none := rfl

/-- A read after a write to the same register gives the byte written. -/
@[simp] theorem Memory.read_write_same (m : Memory) (a : Nat) (v : Byte) :
    Memory.read (Memory.write m a v) a = some v := by
  induction m with
  | nil => simp [Memory.write, Memory.read]
  | cons cell m ih =>
    simp only [Memory.write]
    split
    · simp [Memory.read]
    · split
      · simp [Memory.read]
      · simp [Memory.read, *]

/-- A write leaves every other register alone. -/
theorem Memory.read_write_other (m : Memory) {a b : Nat} (v : Byte) (h : b ≠ a) :
    Memory.read (Memory.write m a v) b = Memory.read m b := by
  induction m with
  | nil => simp [Memory.write, Memory.read, Memory.unlisted, h]
  | cons cell m ih =>
    simp only [Memory.write]
    split
    · simp [Memory.read, h]
    · split
      · next _ heq => simp [Memory.read, h, ← heq]
      · simp [Memory.read, ih]

/-- A write to a register that is there leaves the addresses as they are. -/
theorem Memory.addresses_write (m : Memory) (a : Nat) (v : Byte) (hs : (m.map Prod.fst).Pairwise (· < ·))
    (ha : a ∈ m.map Prod.fst) : (Memory.write m a v).map Prod.fst = m.map Prod.fst := by
  induction m with
  | nil => simp at ha
  | cons cell m ih =>
    simp only [List.map_cons, List.pairwise_cons, List.mem_cons] at hs ha
    simp only [Memory.write]
    split
    · rcases ha with rfl | ha
      · omega
      · have := hs.1 a ha; omega
    · split
      · next heq => simp [heq]
      · next hne => simp [ih hs.2 (ha.resolve_left hne)]

/-- A write to a display register keeps the canonical form. -/
theorem Memory.wf_write (m : Memory) (a : Nat) (v : Byte) (ha : a < Config.regCount) (h : Memory.wf m = true) :
    Memory.wf (Memory.write m a v) = true := by
  simp only [Memory.wf, beq_iff_eq] at h ⊢
  rw [Memory.addresses_write, h]
  · rw [h]; exact List.pairwise_lt_range
  · rw [h]; exact List.mem_range.mpr ha

/-- Every display register holds a value (R31). -/
theorem Memory.read_isSome (m : Memory) (a : Nat) (ha : a < Config.regCount) (h : Memory.wf m = true) :
    (Memory.read m a).isSome = true := by
  have mem : ∀ m : Memory, a ∈ m.map Prod.fst → (Memory.read m a).isSome = true := by
    intro m
    induction m with
    | nil => simp
    | cons cell m ih =>
      intro hm
      simp only [Memory.read]
      split
      · rfl
      · next hne => exact ih ((List.mem_cons.mp hm).resolve_left hne)
  simp only [Memory.wf, beq_iff_eq] at h
  exact mem m (h ▸ List.mem_range.mpr ha)

/-- Reset memory has the canonical form. -/
theorem Memory.wf_reset : Memory.wf State.reset.target.disp = true := rfl

end Sys2Proof.Machine
end

