-- ==== Sys2Proof/Laws/Target.lean ====
section
/-! SUPPORT. What the reference target does on each pin event (R58) and on each byte (R59), said once. -/

namespace Sys2Proof.Machine

/-- `CLK(0)` has no effect on the target (R58). -/
@[simp] theorem Target.onClk_low (c : Config) (t : Target) (clk dio : Level) : t.onClk c clk dio false = t := by
  simp [Target.onClk]

/-- `CLK(1)` with the clock HIGH has no effect (R58). -/
@[simp] theorem Target.onClk_high (c : Config) (t : Target) (dio v : Level) : t.onClk c true dio v = t := by
  simp [Target.onClk]

/-- Outside a frame the clock has no effect (R58). -/
theorem Target.onClk_outside (c : Config) (t : Target) (clk dio v : Level) (h : t.inframe = false) :
    t.onClk c clk dio v = t := by
  simp [Target.onClk, h]

/-- A rising edge inside a frame takes a bit (R58). -/
theorem Target.onClk_bit (c : Config) (t : Target) (dio : Level) (h : t.inframe = true) (hn : t.nbits < 8) :
    t.onClk c false dio true = { t with cur := setBit t.cur t.nbits dio, nbits := t.nbits + 1 } := by
  simp [Target.onClk, h, hn]

/-- The ninth rising edge delivers the byte (R58). -/
theorem Target.onClk_ninth (c : Config) (t : Target) (dio : Level) (h : t.inframe = true) (hn : ¬ t.nbits < 8) :
    t.onClk c false dio true = t.receive c t.cur := by
  simp [Target.onClk, h, hn]

/-- Data may change freely while the clock is LOW (R58). -/
@[simp] theorem Target.onDio_low (t : Target) (dio v : Level) : t.onDio false dio v = t := rfl

/-- A data write that repeats the level has no effect (R58). -/
@[simp] theorem Target.onDio_same (t : Target) (clk v : Level) : t.onDio clk v v = t := by
  cases clk <;> cases v <;> simp [Target.onDio]

/-- A fall with the clock HIGH is a start condition (R58). -/
@[simp] theorem Target.onDio_fall (t : Target) : t.onDio true true false = t.startFrame := rfl

/-- A rise with the clock HIGH is a stop condition (R58). -/
theorem Target.onDio_rise (t : Target) : t.onDio true false true = { t with inframe := false } := by
  obtain ⟨_, _, _, inframe, _, _, _, _, _⟩ := t
  cases inframe <;> rfl

/-- A rise outside a frame has no effect (R58). -/
theorem Target.onDio_rise_outside (t : Target) (clk dio : Level) (h : t.inframe = false) :
    t.onDio clk dio true = t := by
  cases clk <;> cases dio <;> simp [Target.onDio, h]

/-- Bit `i` of a byte with bit `n` set to `v`. -/
theorem getLsbD_setBit (b : Byte) (n : Nat) (v : Level) (i : Nat) (hi : i < 8) :
    (setBit b n v).getLsbD i = if i = n then v else b.getLsbD i := by
  unfold setBit
  by_cases h : i = n
  · subst h; cases v <;> simp [hi]
  · have : ¬ (i - n = 0 ∧ n ≤ i) := by omega
    cases v <;> by_cases hn : i < n <;> simp [h, hi, hn] <;> intros <;> omega

/-- Everything `deliver` can do (R59): the frame's first byte sets its kind, a data byte of an address frame is stored, and
where the effect is unspecified the target is lost. -/
theorem Target.deliver_cases (c : Config) (t : Target) (b : Byte) :
    (t.nbyte = 0 ∧ ∃ kind ptr tctl, kind ≠ .none ∧ (kind = .addr → ptr ≤ 5)
        ∧ t.deliver c b = { t with kind := kind, ptr := ptr, tctl := tctl })
    ∨ (t.nbyte = 0 ∧ t.deliver c b = { t with kind := .other, lost := true })
    ∨ (t.nbyte ≠ 0 ∧ t.kind = .addr ∧ t.ptr ≤ 5
        ∧ t.deliver c b = { t with disp := Memory.write t.disp t.ptr b, ptr := t.ptr + 1 })
    ∨ (t.nbyte ≠ 0 ∧ ¬ (t.kind = .addr ∧ t.ptr ≤ 5) ∧ t.deliver c b = { t with lost := true }) := by
  unfold Target.deliver
  split
  · next h =>
    split
    · exact .inl ⟨h, .dataCmd, t.ptr, t.tctl, by simp, by simp, rfl⟩
    · split
      · next hr => exact .inl ⟨h, .addr, _, t.tctl, by simp, by intro _; exact Nat.sub_le_iff_le_add.mpr (by omega), rfl⟩
      · split
        · exact .inl ⟨h, .ctrl, t.ptr, _, by simp, by simp, rfl⟩
        · exact .inr (.inl ⟨h, rfl⟩)
  · next h =>
    split
    · next hk => exact .inr (.inr (.inl ⟨h, hk.1, hk.2, rfl⟩))
    · next hk => exact .inr (.inr (.inr ⟨h, hk, rfl⟩))

/-- A target that is lost stays lost. -/
theorem Target.deliver_lost (c : Config) (t : Target) (b : Byte) (h : t.lost = true) : (t.deliver c b).lost = true := by
  obtain ⟨-, _, _, _, -, -, e⟩ | ⟨-, e⟩ | ⟨-, -, -, e⟩ | ⟨-, -, e⟩ := t.deliver_cases c b <;> simp [e, h]

theorem Target.onClk_lost (c : Config) (t : Target) (clk dio v : Level) (h : t.lost = true) :
    (t.onClk c clk dio v).lost = true := by
  unfold Target.onClk
  split
  · split
    · exact h
    · exact Target.deliver_lost c t t.cur h
  · exact h

/-- A data write never loses the target. -/
@[simp] theorem Target.onDio_lost (t : Target) (clk dio v : Level) : (t.onDio clk dio v).lost = t.lost := by
  unfold Target.onDio
  (repeat' split) <;> rfl

/-- `deliver` leaves the line-level fields alone. -/
theorem Target.deliver_frame (c : Config) (t : Target) (b : Byte) :
    (t.deliver c b).inframe = t.inframe ∧ (t.deliver c b).nbits = t.nbits ∧ (t.deliver c b).cur = t.cur
      ∧ (t.deliver c b).nbyte = t.nbyte := by
  obtain ⟨-, _, _, _, -, -, h⟩ | ⟨-, h⟩ | ⟨-, -, -, h⟩ | ⟨-, -, h⟩ := t.deliver_cases c b <;> simp [h]

/-- `deliver` reads neither the bit count nor the byte being received. -/
theorem Target.receive_congr (c : Config) (t : Target) (b : Byte) (n : Nat) (cur : Byte) :
    Target.receive c { t with nbits := n, cur := cur } b = Target.receive c t b := by
  unfold Target.receive Target.deliver
  simp only
  (repeat' split) <;> rfl

end Sys2Proof.Machine
end

