-- ==== Sys2Proof/Laws/Ops.lean ====
section
/-! SUPPORT. Everything the shared operations of the meanings can answer. -/

namespace Sys2Proof.Machine

/-- `accept` answers a next state exactly on an idle block. -/
theorem accept_next {s s' t : State} : accept s s' = .next t ↔ s.busy = false ∧ s' = t := by
  unfold accept; cases s.busy <;> simp

theorem accept_idle {s : State} (s' : State) (h : s.busy = false) : accept s s' = .next s' := by
  simp [accept, h]

theorem accept_busy {s : State} (s' : State) (h : s.busy = true) : accept s s' = .refused .operationInFlight := by
  simp [accept, h]

/-- A micro-step answers a next state exactly on a busy sequencer. -/
theorem microStep_next {s s' t : State} : microStep s s' = .next t ↔ s.busy = true ∧ s'.finish = t := by
  unfold microStep; cases s.busy <;> simp

theorem microStep_busy {s : State} (s' : State) (h : s.busy = true) : microStep s s' = .next s'.finish := by
  simp [microStep, h]

theorem microStep_idle {s : State} (s' : State) (h : s.busy = false) : microStep s s' = .refused .sequencerIdle := by
  simp [microStep, h]

/-- What the target has seen is answered exactly when it is not lost. -/
theorem watched_next {s t : State} : watched s = .next t ↔ s.target.lost = false ∧ s = t := by
  unfold watched; cases s.target.lost <;> simp

theorem watched_of_not_lost {s : State} (h : s.target.lost = false) : watched s = .next s := by simp [watched, h]

theorem watched_of_lost {s : State} (h : s.target.lost = true) : watched s = .refused .targetUnspecified := by
  simp [watched, h]

/-- A received wire byte: no effect outside a frame, else the target's view of it; never where that is unspecified. -/
theorem receiveByte_next {s t : State} {b : Byte} (h : receiveByte b s = .next t) :
    t.target.lost = false
      ∧ ((s.target.inframe = false ∧ t = s)
        ∨ (s.target.inframe = true ∧ t = { s with target := s.target.receive s.cfg b })) := by
  obtain ⟨hl, rfl⟩ := watched_next.mp h
  refine ⟨hl, ?_⟩
  split
  · next hf => exact .inr ⟨hf, rfl⟩
  · next hf => exact .inl ⟨by simpa using hf, rfl⟩

/-- The answer of a read is the environment's next level when it has one. -/
@[simp] theorem lineLevel_cons {s : State} {a : Level} {l : List Level} (h : s.lineIn = a :: l) : s.lineLevel = a := by
  simp [State.lineLevel, h]

end Sys2Proof.Machine
end

