-- ==== Sys2Proof/Laws/Step.lean ====
section
/-! SUPPORT. What a step can do, said once. -/

namespace Sys2Proof.Machine

/-- The launch premises hold exactly when none is broken (R235). -/
theorem brokenPremise_none {s : State} : brokenPremise s = none ↔ s.PremisesHold := by
  unfold brokenPremise State.PremisesHold
  cases s.env.linesOut <;> cases s.env.linesOwned <;> cases s.env.returns <;> simp

/-- What is fetched: a lookup; `NEW` for `rst`; the next micro-step; or the offered command. -/
theorem fetch_run {s s' : State} {i : Instr} (h : fetch s = .run i s') :
    (∃ request rest, s.encIn = request :: rest ∧ i = decodeEnc s.cfg request ∧ s' = { s with encIn := rest })
    ∨ (s.encIn = [] ∧ s.PremisesHold ∧ s.rst = true ∧ i = .new ∧ s' = { s with rst := false })
    ∨ (s.EngineMoves ∧ s.busy = true ∧ ∃ u, s.uprog[s.upc]? = some u ∧ i = u.toInstr ∧ s' = s)
    ∨ (∃ rest, s.Offers i rest ∧ s' = { s with cmdIn := rest }) := by
  unfold fetch at h
  split at h
  · next request rest he => cases h; exact .inl ⟨request, rest, he, rfl, rfl⟩
  · next he =>
    refine .inr ?_
    unfold fetchEngine at h
    split at h
    · cases h
    · next hp =>
      have hp := brokenPremise_none.mp hp
      split at h
      · next hr => cases h; exact .inl ⟨he, hp, hr, rfl, rfl⟩
      · next hr =>
        refine .inr ?_
        have hm : s.EngineMoves := ⟨he, hp, by simpa using hr⟩
        split at h
        · next hb =>
          unfold fetchMicro at h
          split at h
          · next u hu => cases h; exact .inl ⟨hm, hb, u, hu, rfl, rfl⟩
          · cases h
        · next hb =>
          unfold fetchCommand at h
          split at h
          · next i rest hd => cases h; exact .inr ⟨rest, ⟨hm, by simpa using hb, hd⟩, rfl⟩
          · cases h
          · cases h

/-- A step that answers a next state waits, or runs what is fetched. -/
theorem step_next {s t : State} (h : step s = .next t) :
    (fetch s = .wait ∧ t = s) ∨ ∃ i s', fetch s = .run i s' ∧ exec i s' = .next t := by
  unfold step at h
  split at h
  · next hf => cases h; exact .inl ⟨hf, rfl⟩
  · next i s' hf => exact .inr ⟨i, s', hf, h⟩
  · cases h
  · cases h

end Sys2Proof.Machine
end

