-- ==== Sys2Proof/Laws/Exec.lean ====
section
/-! SUPPORT. Everything an instruction that `step` can run does when it answers a next state, and with it everything a step
does, said once. -/

namespace Sys2Proof.Machine

/-- Ending a program touches the sequencer's three registers alone (R29). -/
theorem finish_frame (s : State) :
    s.finish = { s with busy := s.finish.busy, uprog := s.finish.uprog, upc := s.finish.upc } := by
  unfold State.finish; split <;> rfl

/-- One read of an acknowledge phase changes the sequencer, the answers left and the trace alone (R29). -/
theorem ackRead_frame (s : State) :
    ackRead s = { s with
      trace := s.trace ++ [.rd s.lineLevel], lineIn := s.lineIn.tail, lineDraws := (ackRead s).lineDraws
      ackcnt := (ackRead s).ackcnt, ackdly := (ackRead s).ackdly, upc := (ackRead s).upc } := by
  unfold ackRead; split <;> rfl

/-- The beats of a string change the encoder's output alone (R86). -/
theorem stringBeats_frame (chars : List CharCode) (s : State) :
    stringBeats chars s = { s with encOut := (stringBeats chars s).encOut } := by
  induction chars generalizing s with
  | nil => rfl
  | cons ch rest ih => show stringBeats rest (s.stringBeat ch (romChar s.cfg ch)) = _; rw [ih]; rfl

/-- What a micro-step can do (R29). -/
theorem exec_micro_next {u : MicroStep} {s t : State} (h : exec u.toInstr s = .next t) :
    s.busy = true ∧
      ((∃ v, u = .clk v ∧ t = (s.driveClk v).advance.finish ∧ (v = true → t.target.lost = false))
      ∨ (∃ v, u = .dio v ∧ t = (s.driveDio v).advance.finish)
      ∨ (u = .dly ∧ t = s.delay.advance.finish)
      ∨ (u = .ackrd ∧ t = (if s.ackdly then { s.delay with ackdly := false } else ackRead s).finish)) := by
  cases u with
  | clk v =>
    cases v with
    | false =>
      exact ⟨(microStep_next.mp h).1, .inl ⟨_, rfl, (microStep_next.mp h).2.symm, fun h => nomatch h⟩⟩
    | true =>
      simp only [MicroStep.toInstr, exec, execUClk1] at h
      split at h
      · next hb => obtain ⟨hl, rfl⟩ := watched_next.mp h; exact ⟨hb, .inl ⟨_, rfl, rfl, fun _ => hl⟩⟩
      · cases h
  | dio v => cases v <;> exact ⟨(microStep_next.mp h).1, .inr (.inl ⟨_, rfl, (microStep_next.mp h).2.symm⟩)⟩
  | dly => exact ⟨(microStep_next.mp h).1, .inr (.inr (.inl ⟨rfl, (microStep_next.mp h).2.symm⟩))⟩
  | ackrd => exact ⟨(microStep_next.mp h).1, .inr (.inr (.inr ⟨rfl, (microStep_next.mp h).2.symm⟩))⟩

/-- What a lookup can do (R120): the encoder's output alone changes. -/
theorem exec_lookup_next {c : Config} {request : EncRequest} {s t : State}
    (h : exec (decodeEnc c request) s = .next t) :
    t = { s with encOut := t.encOut, encBytes := t.encBytes } := by
  have string : ∀ chars, exec (.encodeString chars) s = .next t →
      t = { s with encOut := t.encOut, encBytes := t.encBytes } := by
    intro chars h; cases h; rw [stringBeats_frame]
  cases request with
  | string chars => exact string _ h
  | beat sel input =>
    unfold decodeEnc at h; dsimp only at h
    split at h
    · cases h; rfl
    · cases h; rfl
    · cases h; rfl
    · exact string _ h

/-- What an accepted write of segments can do (R163): nothing, or a program of 1 to 435 micro-steps that begins with the first
event of `START`. -/
theorem accept_loadSegments_next {position : Position} {bytes : List Byte} {s t : State}
    (h : accept s (loadSegments position bytes s) = .next t) :
    s.busy = false ∧ (t = s ∨ ∃ program, t = s.load program ∧ 0 < program.length ∧ program.length ≤ 435
      ∧ program[0]? = some (.dio true)) := by
  obtain ⟨hb, rfl⟩ := accept_next.mp h
  refine ⟨hb, ?_⟩
  unfold loadSegments
  split
  · exact .inl rfl
  · refine .inr ⟨_, rfl, ?_, ?_, rfl⟩
    · simp [framesProgram, segmentFrames, displayFrames]
    · simp [framesProgram, segmentFrames, displayFrames, clampedBytes, effectiveLength]; omega

/-- What a host operation can do (R160 to R166): only on an idle block, the reset of `NEW`, one field of `bs`, nothing, or a
program to run. -/
theorem exec_host_next {i : Instr} {s t : State} (hl : i.layer = .host) (h : exec i s = .next t) :
    s.busy = false ∧
      ((i = .new ∧ t = afterNew s)
      ∨ (∃ on, i = .setDisplayState on ∧ t = { s with bs := bsSetOn s.cfg s.bs on })
      ∨ (∃ level, i = .setBrightness level ∧ t = { s with bs := bsSetLevel s.cfg s.bs level })
      ∨ t = s
      ∨ ∃ program, t = s.load program ∧ 0 < program.length ∧ program.length ≤ 435
          ∧ program[0]? = some (.dio true)) := by
  cases i with
  | new =>
    simp only [exec, execNew] at h
    split at h
    · cases h
    · next hb => cases h; exact ⟨by simpa using hb, .inl ⟨rfl, rfl⟩⟩
  | setDisplayState on =>
    obtain ⟨hb, rfl⟩ := accept_next.mp h; exact ⟨hb, .inr (.inl ⟨on, rfl, rfl⟩)⟩
  | setBrightness level =>
    obtain ⟨hb, rfl⟩ := accept_next.mp h; exact ⟨hb, .inr (.inr (.inl ⟨level, rfl, rfl⟩))⟩
  | writeSegmentsRaw position bytes =>
    obtain ⟨hb, h⟩ := accept_loadSegments_next h; exact ⟨hb, .inr (.inr (.inr h))⟩
  | writeSegmentRaw position byte =>
    obtain ⟨hb, h⟩ := accept_loadSegments_next h; exact ⟨hb, .inr (.inr (.inr h))⟩
  | clear =>
    obtain ⟨hb, h⟩ := accept_loadSegments_next h; exact ⟨hb, .inr (.inr (.inr h))⟩
  | writeDisplayState =>
    obtain ⟨hb, rfl⟩ := accept_next.mp h
    refine ⟨hb, .inr (.inr (.inr (.inr ⟨_, rfl, ?_, ?_, rfl⟩)))⟩ <;> simp [framesProgram, displayFrames]
  | _ => simp [Instr.layer] at hl

/-- Everything a step can do when it answers a next state: wait; a lookup; `NEW` for `rst`; a micro-step; or the offered
command. -/
theorem step_next_cases {s t : State} (h : step s = .next t) :
    t = s
    ∨ (∃ request rest, s.encIn = request :: rest ∧ exec (decodeEnc s.cfg request) { s with encIn := rest } = .next t)
    ∨ (s.encIn = [] ∧ s.PremisesHold ∧ s.rst = true ∧ s.busy = false ∧ t = afterNew { s with rst := false })
    ∨ (s.EngineMoves ∧ ∃ u, s.uprog[s.upc]? = some u ∧ exec u.toInstr s = .next t)
    ∨ (∃ i rest, s.Offers i rest ∧ i.layer = .host ∧ exec i { s with cmdIn := rest } = .next t) := by
  obtain ⟨-, rfl⟩ | ⟨i, s', hf, he⟩ := step_next h
  · exact .inl rfl
  · obtain ⟨request, rest, h1, rfl, rfl⟩ | ⟨h1, h2, h3, rfl, rfl⟩ | ⟨h1, -, u, h3, rfl, rfl⟩ | ⟨rest, h1, rfl⟩ :=
      fetch_run hf
    · exact .inr (.inl ⟨request, rest, h1, he⟩)
    · simp only [exec, execNew] at he
      split at he
      · cases he
      · next hb => cases he; exact .inr (.inr (.inl ⟨h1, h2, h3, by simpa using hb, rfl⟩))
    · exact .inr (.inr (.inr (.inl ⟨h1, u, h3, he⟩)))
    · exact .inr (.inr (.inr (.inr ⟨i, rest, h1, decodeHost_layer h1.2.2, he⟩)))

end Sys2Proof.Machine
end

