-- ==== Sys2Proof/Laws/PerInstr.lean ====
section
/-! SUPPORT. The family `Layered`: an instruction's encoding belongs to the layer of its row in spec/opcode_table.json (R80,
R103). -/

namespace Sys2Proof.Laws.Layered

/-- The encoding of `i` belongs to the layer of `i`, for every set of parameters. -/
def Statement (i : Instr) : Prop := ∀ c : Config, (encode c i).layer = i.layer

theorem new : Statement .new := fun _ => rfl
theorem setDisplayState (on : Bool) : Statement (.setDisplayState on) := fun _ => rfl
theorem setBrightness (level : BitVec 3) : Statement (.setBrightness level) := fun _ => rfl
theorem writeSegmentsRaw (position : Position) (bytes : List Byte) : Statement (.writeSegmentsRaw position bytes) :=
  fun _ => rfl
theorem writeSegmentRaw (position : Position) (byte : Byte) : Statement (.writeSegmentRaw position byte) := fun _ => rfl
theorem writeDisplayState : Statement .writeDisplayState := fun _ => rfl
theorem clear : Statement .clear := fun _ => rfl
theorem encodeDigit (d : Digit) : Statement (.encodeDigit d) := fun _ => rfl
theorem encodeNumber (n : Number) : Statement (.encodeNumber n) := fun _ => rfl
theorem encodeChar (c : CharCode) : Statement (.encodeChar c) := fun _ => rfl
theorem encodeString (s : List CharCode) : Statement (.encodeString s) := fun _ => rfl
theorem start : Statement .start := fun _ => rfl
theorem stop : Statement .stop := fun _ => rfl
theorem sendBit (b : Level) : Statement (.sendBit b) := fun _ => rfl
theorem bitDelay : Statement .bitDelay := fun _ => rfl
theorem ackPhase : Statement .ackPhase := fun _ => rfl
theorem writeByteAck (x : Byte) : Statement (.writeByteAck x) := fun _ => rfl
theorem uClk0 : Statement .uClk0 := fun _ => rfl
theorem uClk1 : Statement .uClk1 := fun _ => rfl
theorem uDio0 : Statement .uDio0 := fun _ => rfl
theorem uDio1 : Statement .uDio1 := fun _ => rfl
theorem uDly : Statement .uDly := fun _ => rfl
theorem uAckrd : Statement .uAckrd := fun _ => rfl
theorem dataCmd : Statement .dataCmd := fun _ => rfl
theorem addrCmd (p : BitVec 3) : Statement (.addrCmd p) := fun _ => rfl
theorem displayCtrl (on : Bool) (level : BitVec 3) : Statement (.displayCtrl on level) := fun _ => rfl
theorem dataByte (d : Byte) : Statement (.dataByte d) := fun _ => rfl

end Sys2Proof.Laws.Layered
end

