-- ==== Sys2Proof/Laws/Trace.lean ====
section
/-! SUPPORT. The readings of a trace, of an event more and of two traces joined. -/

namespace Sys2Proof.Machine

@[simp] theorem noteClk_clk (last : Option Level) (v : Level) : noteClk last (.clk v) = some v := rfl
@[simp] theorem noteClk_dio (last : Option Level) (v : Level) : noteClk last (.dio v) = last := rfl
@[simp] theorem noteClk_rd (last : Option Level) (a : Level) : noteClk last (.rd a) = last := rfl
@[simp] theorem noteClk_dly (last : Option Level) : noteClk last .dly = last := rfl
@[simp] theorem noteDio_clk (last : Option Level) (v : Level) : noteDio last (.clk v) = last := rfl
@[simp] theorem noteDio_dio (last : Option Level) (v : Level) : noteDio last (.dio v) = some v := rfl
@[simp] theorem noteDio_rd (last : Option Level) (a : Level) : noteDio last (.rd a) = last := rfl
@[simp] theorem noteDio_dly (last : Option Level) : noteDio last .dly = last := rfl

@[simp] theorem lastClk_append (a b : List Event) : lastClk (a ++ b) = b.foldl noteClk (lastClk a) :=
  List.foldl_append

@[simp] theorem lastDio_append (a b : List Event) : lastDio (a ++ b) = b.foldl noteDio (lastDio a) :=
  List.foldl_append

@[simp] theorem pinWrites_append (a b : List Event) : pinWrites (a ++ b) = pinWrites a + pinWrites b :=
  List.countP_append

@[simp] theorem reads_append (a b : List Event) : reads (a ++ b) = reads a + reads b := List.countP_append

@[simp] theorem delays_append (a b : List Event) : delays (a ++ b) = delays a + delays b := List.count_append

/-- Reads find the clock HIGH in two traces joined when they do in each, the second from the level the first leaves. -/
theorem readsClockHigh_append (clk : Level) (a b : List Event) :
    readsClockHigh clk (a ++ b)
      = (readsClockHigh clk a && readsClockHigh ((a.foldl noteClk (some clk)).getD clk) b) := by
  induction a generalizing clk with
  | nil => rfl
  | cons e rest ih =>
    cases e with
    | clk v =>
      have h : ∀ (l : List Event) (x y z : Level),
          (l.foldl noteClk (some x)).getD y = (l.foldl noteClk (some x)).getD z := by
        intro l
        induction l with
        | nil => intros; rfl
        | cons e l ih => intro x y z; cases e <;> exact ih _ _ _
      show readsClockHigh v (rest ++ b) = _
      rw [ih v, h rest v v clk]; rfl
    | dio v => exact ih clk
    | rd v =>
      show (clk && readsClockHigh clk (rest ++ b)) = _
      rw [ih clk, ← Bool.and_assoc]; rfl
    | dly => exact ih clk

end Sys2Proof.Machine
end

