-- ==== Sys2Proof/Laws/View.lean ====
section
/-! SUPPORT. When a rising clock edge, or a byte, has an effect that R59 leaves unspecified; and what the target sees of a string
of micro-steps. -/

namespace Sys2Proof.Machine

/-- A byte leaves the target unlost exactly when R59 gives it an effect at its place. -/
theorem Target.deliver_lost_iff (c : Config) (t : Target) (b : Byte) :
    (t.deliver c b).lost = false ↔ t.lost = false ∧ t.Takes c b := by
  unfold Target.Takes Target.deliver decodeWire
  by_cases h0 : t.nbyte = 0
  · have h : (isAddrCmd c b = true) = (c.cmdAddrBase.toNat ≤ b.toNat ∧ b.toNat ≤ c.cmdAddrBase.toNat + 5) := by
      simp [isAddrCmd]
    simp only [h0, h, dataCmdByte, ↓reduceIte]
    (repeat' split) <;> simp_all
  · simp only [h0, ↓reduceIte]
    split <;> next h => simp [h0, h]

/-- A rising edge leaves the target unlost exactly when it can be given one (R58, R59). -/
theorem Target.onClk_lost_iff (c : Config) (t : Target) (dio : Level) :
    (t.onClk c false dio true).lost = false ↔ t.Ready c := by
  unfold Target.Ready
  by_cases hf : t.inframe = true
  · by_cases hn : t.nbits < 8
    · rw [Target.onClk_bit _ _ _ hf hn]; simp [hf]; omega
    · have h8 : 8 ≤ t.nbits := by omega
      rw [Target.onClk_ninth _ _ _ hf hn]
      exact (Target.deliver_lost_iff c t t.cur).trans (by simp [hf, h8])
  · rw [Target.onClk_outside _ _ _ _ _ (by simpa using hf)]; simp [hf]

/-- `CLK(1)` leaves the target unlost exactly when the state can raise the clock. -/
theorem State.onClk_lost_iff (s : State) (dio : Level) :
    (s.target.onClk s.cfg s.clkO dio true).lost = false ↔ s.CanRaise := by
  unfold State.CanRaise
  cases s.clkO with
  | false => simp [Target.onClk_lost_iff]
  | true => simp [Target.Ready]; tauto

@[simp] theorem View.afterAll_nil (c : Config) (v : View) : v.afterAll c [] = v := rfl

@[simp] theorem View.afterAll_cons (c : Config) (v : View) (u : MicroStep) (string : List MicroStep) :
    v.afterAll c (u :: string) = (v.after c u).afterAll c string := rfl

@[simp] theorem View.afterAll_append (c : Config) (v : View) (a b : List MicroStep) :
    v.afterAll c (a ++ b) = (v.afterAll c a).afterAll c b := List.foldl_append

/-- A target that is lost stays lost. -/
theorem View.afterAll_lost (c : Config) (string : List MicroStep) (v : View) (h : v.target.lost = true) :
    (v.afterAll c string).target.lost = true := by
  induction string generalizing v with
  | nil => exact h
  | cons u string ih => exact ih _ (by cases u <;> simp [View.after, h, Target.onClk_lost])

end Sys2Proof.Machine
end

