-- ==== Sys2Proof/Tests/Slice0.lean ====
section
/-! SUPPORT. Tests. Expected values come from the spec: the encodings of spec/30_encoding.md and spec/41_transport.md, and
the vectors S, T and P of spec/95_test_vectors.md. Then, for every statement with hypotheses, a state and operands that meet
them all. -/

namespace Sys2Proof.Tests

open Sys2Proof.Machine

set_option Elab.async false

/-! ## Helpers -/

/-- Whether `exec` answers a next state with property `p`. -/
def ran (i : Instr) (s : State) (p : State → Bool) : Bool :=
  match exec i s with
  | .next t => p t
  | .fault _ => false
  | .refused _ => false

/-- Whether `step` answers a next state with property `p`. -/
def stepped (s : State) (p : State → Bool) : Bool :=
  match step s with
  | .next t => p t
  | .fault _ => false
  | .refused _ => false

/-- A target between frames whose registers hold 0: the values at reset are free (log entries 11, 12), so a test names its own. -/
def zeroTarget : Target :=
  { Target.atReset with
    disp := [(0, 0x00#8), (1, 0x00#8), (2, 0x00#8), (3, 0x00#8), (4, 0x00#8), (5, 0x00#8)], tctl := 0x0#4, ptr := 0 }

/-- The state after reset with that target. -/
def base : State := { State.reset with target := zeroTarget }

/-- An idle block with the two lines at given levels, as R147 lists them. -/
def atLines (clk dio : Level) : State := { base with clkO := clk, dioO := dio, trace := [] }

/-- An idle block whose brightness register holds `bs`. -/
def withBs (bs : Byte) : State := { base with bs := bs, trace := [] }

/-- An idle block to which the host presents bytes. -/
def offering (bytes : List Byte) : State := { base with cmdIn := bytes }

/-- A block whose sequencer has one micro-step to run and one after it. -/
def running (u : MicroStep) : State := { base.load [u, .dly] with trace := [] }

/-- A target inside a frame, `nbyte` bytes of it received. -/
def receiving (nbyte : Nat) (kind : FrameKind) (ptr : Nat) : State :=
  { base with target := { zeroTarget with inframe := true, nbyte := nbyte, kind := kind, ptr := ptr } }

/-- A target inside a frame with eight bits of byte `b` received, the clock LOW, the sequencer about to raise it. -/
def ninthEdge (nbyte : Nat) (kind : FrameKind) (ptr : Nat) (b : Byte) : State :=
  { running (.clk true) with
    target := { zeroTarget with inframe := true, nbits := 8, cur := b, nbyte := nbyte, kind := kind, ptr := ptr } }

/-- An idle block whose environment answers the reads with given levels, with a given bound. -/
def answering (bound : Nat) (answers : List Level) : State :=
  { atLines true false with lineIn := answers, cfg := { defaultConfig with ackSettleMax := bound } }

/-- A lookup presented on the encoder's port while an operation runs. -/
def asking (request : EncRequest) : State := { base.load [.dly] with encIn := [request] }

/-- `write_display_state` at its acknowledge micro-step, one read answered HIGH, the settle delay owed (T70). -/
def settling : State :=
  { base.load (framesProgram (displayFrames defaultConfig 0x0F#8)) with
    target := { zeroTarget with inframe := true, nbyte := 1, kind := .ctrl, tctl := 0xF#4 }
    upc := 49, ackcnt := 1, ackdly := true, clkO := true, lineIn := [false]
    trace := [.clk true, .dio false, .rd true] }

/-! ## Well-formedness: an ill-formed term for each check -/

/-- R85: the length byte holds at most 255. -/
theorem test_256_bytes_ill_formed :
    (Instr.writeSegmentsRaw 0 (List.replicate 256 0x00#8)).wellFormed defaultConfig = false := by decide +kernel

theorem test_255_bytes_well_formed :
    (Instr.writeSegmentsRaw 0 (List.replicate 255 0x00#8)).wellFormed defaultConfig = true := by decide +kernel

/-- R6: the widths of the operands are 8, 8 and 21 by default, and parameters. -/
theorem test_wide_operands_ill_formed :
    (Instr.writeSegmentsRaw 256 []).wellFormed defaultConfig = false
    ∧ (Instr.writeSegmentRaw 256 0x00#8).wellFormed defaultConfig = false
    ∧ (Instr.encodeDigit 256).wellFormed defaultConfig = false
    ∧ (Instr.encodeChar 0x200000).wellFormed defaultConfig = false
    ∧ (Instr.encodeString [0x48, 0x200000]).wellFormed defaultConfig = false
    ∧ (Instr.writeSegmentRaw 256 0x00#8).wellFormed { defaultConfig with posWidth := 9 } = true := by decide

/-- R87: positions 6 and 7 are never sent. -/
theorem test_addr_6_ill_formed : (Instr.addrCmd 6#3).wellFormed defaultConfig = false := by decide

theorem test_addr_7_ill_formed : (Instr.addrCmd 7#3).wellFormed defaultConfig = false := by decide

/-! ## Decoding: words written out from the spec's encodings -/

/-- R86: opcode `0x01`. -/
theorem test_decode_new : decode defaultConfig (.host [0b00000001#8]) = .ok .new := by decide

/-- R86: `00000010 zzzzzzzs`; T48. -/
theorem test_decode_set_display_state :
    decode defaultConfig (.host [0b00000010#8, 0b00000001#8]) = .ok (.setDisplayState true)
    ∧ decode defaultConfig (.host [0b00000010#8, 0b11111110#8]) = .ok (.setDisplayState false) := by decide

/-- R86: `00000011 zzzzzlll`; T47. -/
theorem test_decode_set_brightness :
    decode defaultConfig (.host [0b00000011#8, 0b00001100#8]) = .ok (.setBrightness 4#3) := by decide

/-- R86, T71: opcode, position, `N`, data. -/
theorem test_decode_write_segments_raw :
    decode defaultConfig (.host [0x04#8, 0x04#8, 0x03#8, 0xAA#8, 0xBB#8, 0xCC#8])
      = .ok (.writeSegmentsRaw 4 [0xAA#8, 0xBB#8, 0xCC#8])
    ∧ decode defaultConfig (.host [0x04#8, 0x09#8, 0x00#8]) = .ok (.writeSegmentsRaw 9 []) := by decide

/-- R86: opcode, position, byte: the two operands are not swapped. -/
theorem test_decode_write_segment_raw :
    decode defaultConfig (.host [0b00000101#8, 0x09#8, 0x80#8]) = .ok (.writeSegmentRaw 9 0x80#8) := by decide

theorem test_decode_write_display_state :
    decode defaultConfig (.host [0b00000110#8]) = .ok .writeDisplayState := by decide

theorem test_decode_clear : decode defaultConfig (.host [0b00000111#8]) = .ok .clear := by decide

/-- R98: `0x00` and `0x08` are reserved. R84: a command is not accepted before its last byte. -/
theorem test_decode_host_refuses :
    decodeHost defaultConfig [0x00#8, 0x01#8] = .error (.reservedOpcode 0x00#8)
    ∧ decodeHost defaultConfig [0x08#8] = .error (.reservedOpcode 0x08#8)
    ∧ decodeHost defaultConfig [0x04#8, 0x04#8, 0x03#8, 0xAA#8, 0xBB#8] = .error .incomplete
    ∧ decodeHost defaultConfig [0x05#8, 0x01#8] = .error .incomplete
    ∧ decode defaultConfig (.host [0x06#8, 0x07#8]) = .error .trailingBytes := by decide

/-- R86: selects `00` to `11`. -/
theorem test_decode_encoder :
    decode defaultConfig (.enc (.beat 0b00#2 17)) = .ok (.encodeDigit 17)
    ∧ decode defaultConfig (.enc (.beat 0b01#2 65535)) = .ok (.encodeNumber 65535#16)
    ∧ decode defaultConfig (.enc (.beat 0b10#2 0x1FFFFF)) = .ok (.encodeChar 0x1FFFFF)
    ∧ decode defaultConfig (.enc (.beat 0b11#2 0x48)) = .ok (.encodeString [0x48]) := by decide

/-- R140: `011 001 100 010 100`. -/
theorem test_decode_start :
    decode defaultConfig (.prim [0b011#3, 0b001#3, 0b100#3, 0b010#3, 0b100#3]) = .ok .start := by decide

/-- R141: `010 001 100 011 100`. -/
theorem test_decode_stop :
    decode defaultConfig (.prim [0b010#3, 0b001#3, 0b100#3, 0b011#3, 0b100#3]) = .ok .stop := by decide

/-- R142: `000 01b 100 001 100`. -/
theorem test_decode_send_bit :
    decode defaultConfig (.prim [0b000#3, 0b010#3, 0b100#3, 0b001#3, 0b100#3]) = .ok (.sendBit false)
    ∧ decode defaultConfig (.prim [0b000#3, 0b011#3, 0b100#3, 0b001#3, 0b100#3]) = .ok (.sendBit true) := by decide

/-- R143: `100`. R144: `000 010 100 001 101`. -/
theorem test_decode_bit_delay_and_ack_phase :
    decode defaultConfig (.prim [0b100#3]) = .ok .bitDelay
    ∧ decode defaultConfig (.prim [0b000#3, 0b010#3, 0b100#3, 0b001#3, 0b101#3]) = .ok .ackPhase := by decide

/-- R145, T22: `0x01` sends its 1 in the first bit cell. -/
theorem test_decode_write_byte_ack :
    decode defaultConfig (.prim ([0b000#3, 0b011#3, 0b100#3, 0b001#3, 0b100#3]
        ++ (List.replicate 7 [0b000#3, 0b010#3, 0b100#3, 0b001#3, 0b100#3]).flatten
        ++ [0b000#3, 0b010#3, 0b100#3, 0b001#3, 0b101#3]))
      = .ok (.writeByteAck 0x01#8) := by decide +kernel

theorem test_decode_prim_refuses :
    decodePrim [] = .error .noSuchPrimitive ∧ decodePrim [0b100#3, 0b100#3] = .error .noSuchPrimitive
    ∧ decodePrim [0b110#3] = .error (.unusedMicroCode 0b110#3) := by decide

/-- R96: `000` to `101`; `110` and `111` are unused. -/
theorem test_decode_micro :
    [0b000#3, 0b001#3, 0b010#3, 0b011#3, 0b100#3, 0b101#3].map (fun code => decode defaultConfig (.micro code))
      = [.ok .uClk0, .ok .uClk1, .ok .uDio0, .ok .uDio1, .ok .uDly, .ok .uAckrd]
    ∧ decode defaultConfig (.micro 0b110#3) = .error (.unusedMicroCode 0b110#3)
    ∧ decode defaultConfig (.micro 0b111#3) = .error (.unusedMicroCode 0b111#3) := by decide

/-- R83, R87, R88, R89: `0x40`, `11000ppp`, `1000slll`, and any byte that is not first. -/
theorem test_decode_wire :
    decode defaultConfig (.wire true 0b01000000#8) = .ok .dataCmd
    ∧ decode defaultConfig (.wire true 0b11000101#8) = .ok (.addrCmd 5#3)
    ∧ decode defaultConfig (.wire true 0b10001011#8) = .ok (.displayCtrl true 3#3)
    ∧ decode defaultConfig (.wire false 0b11000101#8) = .ok (.dataByte 0xC5#8)
    ∧ decode defaultConfig (.wire true 0xC6#8) = .error (.unknownCommand 0xC6#8) := by decide

/-- Words of spec/opcode_table.json: `CLEAR`; `START`, `011001100010100`; `uACKRD`; `ADDR_CMD` for 5; a data byte. -/
theorem test_table_words :
    decodeTableWord 8 0x07 = some .clear ∧ decodeTableWord 15 0b011001100010100 = some .start
    ∧ decodeTableWord 3 0b101 = some .uAckrd ∧ decodeTableWord 8 0xC5 = some (.addrCmd 5#3)
    ∧ decodeTableWord 8 0xFF = some (.dataByte 0xFF#8) ∧ decodeTableWord 3 0b110 = none := by decide +kernel

/-- `withFetchWord` lets the next step run the word: `CLEAR` is in flight with its 435 micro-steps (R238). -/
theorem test_with_fetch_word :
    stepped (State.reset.withFetchWord 8 0x07) (fun t => t.busy && t.uprog.length == 435) = true := by decide +kernel

/-! ## One step of each instruction -/

/-- R160: a second `NEW` with the lines HIGH: `C0 D0`, and no start condition. -/
theorem test_new :
    ran .new { atLines true true with bs := 0x02#8 } (fun t =>
      t.bs == 0x0F#8 && t.trace == [.clk false, .dio false] && !t.clkO && !t.dioO && !t.target.inframe) = true := by
  decide

/-- T41, T42, T43. -/
theorem test_set_display_state :
    ran (.setDisplayState false) (withBs 0x0F#8) (fun t => t.bs == 0x07#8 && t.trace == []) = true
    ∧ ran (.setDisplayState false) (withBs 0x07#8) (fun t => t.bs == 0x07#8) = true
    ∧ ran (.setDisplayState true) (withBs 0x07#8) (fun t => t.bs == 0x0F#8) = true := by decide

/-- T44, T45, T47. -/
theorem test_set_brightness :
    ran (.setBrightness 0#3) (withBs 0x0F#8) (fun t => t.bs == 0x08#8 && t.trace == []) = true
    ∧ ran (.setBrightness 5#3) (withBs 0x07#8) (fun t => t.bs == 0x05#8) = true
    ∧ ran (.setBrightness 4#3) (withBs 0x08#8) (fun t => t.bs == 0x0C#8) = true := by decide

/-- T37: 255 bytes at position 5 send one: `165 + 45*1` micro-steps. T36: the empty write does nothing. -/
theorem test_write_segments_raw :
    ran (.writeSegmentsRaw 5 (List.replicate 255 0x09#8)) (withBs 0x0F#8) (fun t => t.busy && t.uprog.length == 210)
      = true
    ∧ ran (.writeSegmentsRaw 9 []) (withBs 0x0F#8) (fun t => t == withBs 0x0F#8) = true := by decide +kernel

/-- T31: frames `[40] [C4 AA BB] [8F]`. -/
theorem test_write_segments_raw_frames :
    segmentFrames defaultConfig 0x0F#8 4 [0xAA#8, 0xBB#8, 0xCC#8] = [[0x40#8], [0xC4#8, 0xAA#8, 0xBB#8], [0x8F#8]] := by
  decide

/-- R164: `WRITE_SEGMENT_RAW 0x80, 9`: the first data byte's micro-steps stand behind 55 + 5 + 45 others, for `0x80`. -/
theorem test_write_segment_raw :
    ran (.writeSegmentRaw 9 0x80#8) (withBs 0x0F#8) (fun t =>
      t.uprog.length == 210 && (t.uprog.drop 105).take 45 == writeByteString 0x80#8) = true := by decide +kernel

/-- T51: `bs = 0x07` sends `0x87`. -/
theorem test_write_display_state :
    ran .writeDisplayState (withBs 0x07#8) (fun t =>
      t.uprog.length == 55 && (t.uprog.drop 5).take 45 == writeByteString 0x87#8 && t.trace == []) = true := by
  decide +kernel

/-- S9: six zero bytes and `bs` unchanged. -/
theorem test_clear :
    ran .clear (withBs 0x02#8) (fun t => t.busy && t.uprog.length == 435 && t.bs == 0x02#8) = true := by decide +kernel

/-- T4: 255 mod 10 is 5. -/
theorem test_encode_digit :
    ran (.encodeDigit 255) State.reset (fun t => t.encOut == 0x0000006D#32) = true := by decide

/-- S2, T6. -/
theorem test_encode_number :
    ran (.encodeNumber 1234#16) State.reset (fun t => t.encOut == 0x664F5B06#32) = true
    ∧ ran (.encodeNumber 65535#16) State.reset (fun t => t.encBytes == [0x6D#8, 0x6D#8, 0x4F#8, 0x6D#8]) = true := by
  decide

/-- T9, T9b, S3: `'a'`, `'K'`, `'%'`. -/
theorem test_encode_char :
    ran (.encodeChar 0x61) State.reset (fun t => t.encOut == 0x5F#32) = true
    ∧ ran (.encodeChar 0x4B) State.reset (fun t => t.encOut == 0x00#32) = true
    ∧ ran (.encodeChar 0x25) State.reset (fun t => t.encOut == 0x00#32) = true := by decide

/-- R128: `"Hi-5"`; the empty string. -/
theorem test_encode_string :
    ran (.encodeString [0x48, 0x69, 0x2D, 0x35]) State.reset
      (fun t => t.encBytes == [0x76#8, 0x10#8, 0x40#8, 0x6D#8]) = true
    ∧ ran (.encodeString []) State.reset (fun t => t.encBytes == []) = true := by decide

/-- T10: the start condition is the fourth event. -/
theorem test_start :
    ran .start (atLines false false) (fun t =>
      t.trace == [.dio true, .clk true, .dly, .dio false, .dly] && t.clkO && !t.dioO && t.target.inframe) = true := by
  decide

/-- T11: after an acknowledge phase. -/
theorem test_stop :
    ran .stop { receiving 1 .ctrl 0 with clkO := true, dioO := false, trace := [] } (fun t =>
      t.trace == [.dio false, .clk true, .dly, .dio true, .dly] && t.clkO && t.dioO && !t.target.inframe) = true := by
  decide

/-- T12, T13. -/
theorem test_send_bit :
    ran (.sendBit true) (atLines true false) (fun t => t.trace == [.clk false, .dio true, .dly, .clk true, .dly]) = true
    ∧ ran (.sendBit false) (atLines true true) (fun t =>
        t.trace == [.clk false, .dio false, .dly, .clk true, .dly] && t.clkO && !t.dioO) = true := by decide

theorem test_bit_delay : ran .bitDelay (atLines true true) (fun t => t.trace == [.dly]) = true := by decide

/-- T15 and T18. -/
theorem test_ack_phase :
    ran .ackPhase (answering 10 [true, true, false]) (fun t =>
      t.trace == [.clk false, .dio false, .dly, .clk true, .rd true, .dly, .rd true, .dly, .rd false]) = true
    ∧ ran .ackPhase (answering 2 [true, false, true]) (fun t => t.trace.length == 7 && t.lineIn == [true]) = true := by
  decide

/-- T16, T17: with every read answered HIGH the phase ends at the bound. -/
theorem test_ack_phase_bound :
    ran .ackPhase (answering 10 (List.replicate 12 true)) (fun t => t.trace.length == 23 && t.clkO && !t.dioO) = true
    ∧ ran .ackPhase (answering 1 [true]) (fun t => t.trace.length == 5) = true := by decide

/-- T23: `0x80` has its 1 in the eighth bit cell; the target receives it as a display-control command (R59). -/
theorem test_write_byte_ack :
    ran (.writeByteAck 0x8B#8) { receiving 0 .none 0 with lineIn := [false], trace := [] } (fun t =>
      t.trace.length == 45 && t.target.tctl == 0xB#4 && t.target.nbyte == 1) = true := by decide +kernel

/-- R29: `CLK(v)` and `upc + 1`. -/
theorem test_u_clk :
    ran .uClk0 (running (.clk false)) (fun t => t.trace == [.clk false] && !t.clkO && t.upc == 1) = true
    ∧ ran .uClk1 (running (.clk true)) (fun t => t.trace == [.clk true] && t.clkO && t.upc == 1) = true := by decide

/-- R29, R58: `DIO(v)`; with the clock HIGH a fall is a start condition. -/
theorem test_u_dio :
    ran .uDio1 (running (.dio true)) (fun t => t.trace == [.dio true] && t.dioO && t.upc == 1) = true
    ∧ ran .uDio0 { running (.dio false) with clkO := true, dioO := true } (fun t =>
        t.trace == [.dio false] && !t.dioO && t.target.inframe) = true := by decide

/-- R29: the last micro-step of a program ends it. -/
theorem test_u_dly_at_the_end :
    ran .uDly (State.reset.load [.dly]) (fun t => !t.busy && t.uprog == [] && t.upc == 0) = true := by decide

/-- T70: the settle delay that is owed, then nothing else. -/
theorem test_u_ackrd_settles :
    stepped settling (fun t => !t.ackdly && t.upc == 49 && t.ackcnt == 1 && t.lineIn == [false]) = true := by
  decide +kernel

/-- T70: the read answered LOW ends the phase, `upc <- 50`. -/
theorem test_u_ackrd_reads :
    stepped { settling with ackdly := false } (fun t => t.ackcnt == 0 && t.upc == 50 && t.busy) = true := by
  decide +kernel

/-- R59: the first byte of a frame is a command. -/
theorem test_command_bytes :
    ran .dataCmd (receiving 0 .none 4) (fun t => t.target.kind == .dataCmd && t.target.ptr == 4) = true
    ∧ ran (.addrCmd 5#3) (receiving 0 .none 0) (fun t => t.target.kind == .addr && t.target.ptr == 5) = true
    ∧ ran (.displayCtrl true 2#3) (receiving 0 .none 0) (fun t => t.target.tctl == 0xA#4) = true := by decide

/-- T38: a data byte equal to a command value stays data. -/
theorem test_data_byte :
    ran (.dataByte 0x40#8) (receiving 1 .addr 2) (fun t =>
      t.target.register 2 == some 0x40#8 && t.target.ptr == 3 && t.target.kind == .addr) = true := by decide

/-- R59, U7: a second byte after a data command is unspecified, and so is a first byte that is no command. -/
theorem test_unspecified_byte :
    exec (.dataByte 0x00#8) (receiving 1 .dataCmd 0) = .refused .targetUnspecified
    ∧ exec (.addrCmd 6#3) (receiving 0 .none 0) = .refused .targetUnspecified
    ∧ exec (.dataByte 0x01#8) (receiving 0 .none 0) = .refused .targetUnspecified := ⟨rfl, rfl, rfl⟩

/-- R60, U7: `uCLK1` is refused where it would deliver such a byte: a first byte that is no command, a byte with the pointer past
5; and not on the eighth edge. -/
theorem test_unspecified_edge :
    exec .uClk1 (ninthEdge 0 .none 0 0x01#8) = .refused .targetUnspecified
    ∧ exec .uClk1 (ninthEdge 7 .addr 6 0x11#8) = .refused .targetUnspecified
    ∧ ran .uClk1 (ninthEdge 1 .addr 5 0x11#8) (fun t => t.target.register 5 == some 0x11#8 && t.target.ptr == 6) = true :=
  ⟨rfl, rfl, by decide⟩

/-- R57: memory in canonical form; six registers and no seventh. -/
theorem test_memory :
    Memory.read (Memory.write zeroTarget.disp 5 0x11#8) 5 = some 0x11#8
    ∧ Memory.read (Memory.write zeroTarget.disp 5 0x11#8) 4 = some 0x00#8
    ∧ Memory.wf (Memory.write zeroTarget.disp 5 0x11#8) = true ∧ Memory.wf (Memory.write zeroTarget.disp 6 0x11#8) = false
    ∧ Memory.wf [(1, 0x11#8), (0, 0x22#8)] = false ∧ Memory.wf [] = false ∧ Memory.read zeroTarget.disp 6 = none := by decide

/-- R31, U6: every register holds some value at reset. -/
theorem test_registers_hold_values :
    (∀ a ∈ List.range 6, (State.reset.target.register a).isSome = true) ∧ State.reset.target.register 6 = none :=
  ⟨by decide, rfl⟩

/-- R120: the same string answers the same `enc_out`, its undriven bits too, however often it is asked. -/
theorem test_lookup_repeats (s : State) :
    stringBeats [0x48, 0x48] s = stringBeats [0x48] s := rfl

/-- The defaults meet every condition the spec puts on a parameter; an acknowledge bound of 0, overlapping fields of `bs`, a data
command equal to an address command, a ROM entry for `!` (R125 (b), (c)) and a character port too narrow for the ROM do not. -/
theorem test_config :
    defaultConfig.ok = true ∧ { defaultConfig with ackSettleMax := 0 }.ok = false
    ∧ { defaultConfig with charRom := (0x21, 0x0A#8) :: defaultCharRom }.ok = false
    ∧ { defaultConfig with charWidth := 6 }.ok = false
    ∧ { defaultConfig with bsOnBit := 2 }.ok = false ∧ { defaultConfig with cmdDataWriteAutoinc := 0xC5#8 }.ok = false := by
  decide +kernel

/-- The other admissible layout of `bs`: on/off in bit 0, the level in bits 3:1. -/
def otherLayout : Config := { defaultConfig with bsOnBit := 0, bsLevelLsb := 1 }

theorem test_other_layout :
    otherLayout.ok = true
    ∧ ran (.setBrightness 2#3) { withBs 0x0F#8 with cfg := otherLayout } (fun t => t.bs == 0x05#8) = true := by
  decide +kernel

/-- R6: with a position of 12 bits, two bytes, least significant first; the four bits above its width are ignored. -/
theorem test_other_widths :
    decodeHost { defaultConfig with posWidth := 12 } [0x05#8, 0x34#8, 0xF2#8, 0x80#8] = .ok (.writeSegmentRaw 0x234 0x80#8, [])
    ∧ decodeEnc { defaultConfig with dWidth := 4, charWidth := 7 } (.beat 0b00#2 0x15) = .encodeDigit 5
    ∧ decodeEnc { defaultConfig with dWidth := 4, charWidth := 7 } (.beat 0b10#2 0xC8) = .encodeChar 0x48 := by decide

/-! ## Witnesses: for every statement with hypotheses, a state and operands that meet them all -/

/-- The bytes of T71: `WRITE_SEGMENTS_RAW [0xAA, 0xBB, 0xCC], 4`. -/
def t71 : List Byte := [0x04#8, 0x04#8, 0x03#8, 0xAA#8, 0xBB#8, 0xCC#8]

/-- The instruction of T71. -/
def t71Instr : Instr := .writeSegmentsRaw 4 [0xAA#8, 0xBB#8, 0xCC#8]

/-- An idle block meets the invariant whatever bytes the host presents. -/
theorem offering_inv (bytes : List Byte) : Inv (offering bytes) where
  cfgOk := (by decide +kernel : defaultConfig.ok = true)
  bsSmall := (by decide : State.reset.bs.toNat < 16)
  idleProgram := fun _ => rfl
  upcRange := Nat.le_refl 0
  busyNext := fun h => nomatch h
  programShort := Nat.zero_le _
  ackBound := (by decide : 0 < 10)
  ackOwed := fun h => nomatch h
  ackOnlyInPhase := fun _ => ⟨rfl, rfl⟩
  dispWf := rfl
  nbitsRange := Nat.zero_le _
  frameEnds := ⟨rfl, rfl⟩
  ptrRange := fun _ => Nat.zero_le _
  kindKnown := ⟨fun _ => rfl, fun _ => rfl⟩
  clkLatch := rfl
  dioLatch := rfl

/-- The state of T70 in the middle of its acknowledge phase meets the invariant. -/
theorem settling_inv : Inv settling where
  cfgOk := by decide +kernel
  bsSmall := by decide
  idleProgram := by decide
  upcRange := by decide +kernel
  busyNext := by decide +kernel
  programShort := by decide +kernel
  ackBound := by decide
  ackOwed := by decide
  ackOnlyInPhase := by decide +kernel
  dispWf := rfl
  nbitsRange := by decide
  frameEnds := by decide +kernel
  ptrRange := by decide
  kindKnown := by decide
  clkLatch := rfl
  dioLatch := rfl

theorem offering_moves (bytes : List Byte) : (offering bytes).EngineMoves := ⟨rfl, ⟨rfl, rfl, rfl⟩, rfl⟩

theorem settling_moves : settling.EngineMoves := ⟨rfl, ⟨rfl, rfl, rfl⟩, rfl⟩

theorem offering_t71 : (offering t71).Offers t71Instr [] := ⟨offering_moves t71, rfl, by decide⟩

theorem test_witness_decode_of_encode :
    defaultConfig.ok = true ∧ (Instr.addrCmd 5#3).wellFormed defaultConfig = true ∧ otherLayout.ok = true
    ∧ (Instr.displayCtrl true 7#3).wellFormed otherLayout = true := by decide +kernel

theorem test_witness_host_stream :
    t71Instr.wellFormed defaultConfig = true ∧ encode defaultConfig t71Instr = .host t71 := by decide

/-- Reserved: `0x00`, `0x08`, `0xFF`. Not reserved: `0x07`. -/
theorem test_witness_reserved_opcodes :
    (∀ op : Byte, (offering [op]).EngineMoves ∧ (offering [op]).busy = false ∧ (offering [op]).cmdIn = op :: [])
    ∧ step (offering [0x00#8]) = .refused (.reservedOpcode 0x00#8)
    ∧ step (offering [0x08#8]) = .refused (.reservedOpcode 0x08#8)
    ∧ step (offering [0xFF#8]) = .refused (.reservedOpcode 0xFF#8)
    ∧ step (offering [0x07#8]) ≠ .refused (.reservedOpcode 0x07#8) :=
  ⟨fun op => ⟨offering_moves [op], rfl, rfl⟩, rfl, rfl, rfl, fun h => nomatch h⟩

theorem test_witness_step_runs_command : (offering t71).Offers t71Instr [] := offering_t71

theorem test_witness_step_runs_micro_step :
    settling.EngineMoves ∧ settling.busy = true ∧ settling.uprog[settling.upc]? = some .ackrd :=
  ⟨settling_moves, rfl, by decide +kernel⟩

theorem test_witness_step_runs_lookup :
    (asking (.beat 0b10#2 0x48)).encIn = [.beat 0b10#2 0x48] ∧ (asking (.beat 0b10#2 0x48)).busy = true :=
  ⟨rfl, rfl⟩

theorem test_witness_idle_block_waits :
    (offering []).EngineMoves ∧ decodeHost (offering []).cfg (offering []).cmdIn = .error .incomplete
    ∧ (offering (t71.take 5)).EngineMoves ∧ decodeHost defaultConfig (offering (t71.take 5)).cmdIn = .error .incomplete :=
  ⟨offering_moves [], rfl, offering_moves _, by decide⟩

theorem test_witness_reset_input :
    let s := { offering t71 with rst := true }
    s.encIn = [] ∧ s.PremisesHold ∧ s.rst = true ∧ s.busy = false :=
  ⟨rfl, ⟨rfl, rfl, rfl⟩, rfl, rfl⟩

theorem test_witness_nothing_overlaps :
    let s := { settling with rst := true }
    s.busy = true ∧ s.encIn = [] ∧ s.PremisesHold ∧ s.rst = true ∧ Instr.clear.layer = .host ∧ Instr.clear ≠ .new :=
  ⟨rfl, rfl, ⟨rfl, rfl, rfl⟩, rfl, rfl, by decide⟩

/-- One state for each of P1, P2 and P5 broken. -/
theorem test_witness_broken_premises :
    step { State.reset with env := ⟨false, true, true⟩ } = .refused .linesNotOutputs
    ∧ step { State.reset with env := ⟨true, false, true⟩ } = .refused .linesNotOwned
    ∧ step { State.reset with env := ⟨true, true, false⟩ } = .refused .environmentHangs := ⟨rfl, rfl, rfl⟩

/-- The ninth rising edge of the byte `0xC5`, first in its frame. -/
theorem test_witness_ninth_edge :
    let s := ninthEdge 0 .none 0 0xC5#8
    s.cfg.ok = true ∧ s.busy = true ∧ s.clkO = false ∧ s.target.inframe = true ∧ s.target.nbits = 8
    ∧ decodeWire s.cfg (s.target.nbyte == 0) s.target.cur = .ok (.addrCmd 5#3)
    ∧ ∃ t, exec (.addrCmd 5#3) s = .next t :=
  ⟨by decide +kernel, rfl, rfl, rfl, rfl, by decide, _, rfl⟩

/-- The byte after the last command of each class: `0x41`, `0xC6`, `0x90`. -/
theorem test_unknown_commands (b : Byte) (hb : b ∈ [0x41#8, 0xC6#8, 0x90#8]) (i : Instr) :
    decodeWire defaultConfig true b ≠ .ok i := by
  have h : ∀ b ∈ [0x41#8, 0xC6#8, 0x90#8], decodeWire defaultConfig true b = .error (.unknownCommand b) := by decide
  simp [h b hb]

/-- A byte with an unspecified effect: a first byte that is no command; a second byte after a data command; a byte with the
pointer at 6. -/
theorem test_witness_unspecified :
    ¬ (ninthEdge 0 .none 0 0xC6#8).target.Takes defaultConfig 0xC6#8
    ∧ ¬ (ninthEdge 1 .dataCmd 0 0x11#8).target.Takes defaultConfig 0x11#8
    ∧ ¬ (ninthEdge 7 .addr 6 0x11#8).target.Takes defaultConfig 0x11#8 :=
  ⟨fun h => (h.1 rfl).elim fun i => test_unknown_commands _ (by decide) i, fun h => absurd (h.2 (by decide)).1 (by decide),
    fun h => absurd (h.2 (by decide)).2 (by decide)⟩

/-- A target that can be given an edge: outside a frame; on the eighth bit; on the ninth edge of a command, and of a data byte for
register 5. -/
theorem test_witness_ready :
    base.target.Ready defaultConfig ∧ { (receiving 0 .none 0).target with nbits := 7 }.Ready defaultConfig
    ∧ (ninthEdge 0 .none 0 0xC5#8).target.Ready defaultConfig ∧ (ninthEdge 1 .addr 5 0x11#8).target.Ready defaultConfig :=
  ⟨⟨rfl, fun h => nomatch h⟩, ⟨rfl, fun _ h => absurd h (by decide)⟩,
    ⟨rfl, fun _ _ => ⟨fun _ => ⟨.addrCmd 5#3, by decide⟩, fun h => absurd rfl h⟩⟩,
    ⟨rfl, fun _ _ => ⟨fun h => absurd h (by decide), fun _ => ⟨rfl, by decide⟩⟩⟩⟩

/-- A state that can raise the clock because it is HIGH, though the target waits for an edge with an unspecified byte; and one that
cannot. -/
theorem test_witness_can_raise :
    { ninthEdge 0 .none 0 0xC6#8 with clkO := true }.CanRaise ∧ ¬ (ninthEdge 0 .none 0 0xC6#8).CanRaise
    ∧ ¬ (ninthEdge 0 .none 0 0xC6#8).target.Ready defaultConfig :=
  ⟨.inr ⟨rfl, rfl⟩,
    fun h => h.elim (fun h => test_witness_unspecified.1 (h.2 rfl (by decide))) (fun h => nomatch h.2),
    fun h => test_witness_unspecified.1 (h.2 rfl (by decide))⟩

theorem test_witness_new :
    (atLines true true).busy = false
    ∧ (let s := { atLines true true with rst := true }
       s.encIn = [] ∧ s.PremisesHold ∧ s.rst = true) := ⟨rfl, rfl, ⟨rfl, rfl, rfl⟩, rfl⟩

/-- Both layouts of `bs`, on an idle block. -/
theorem test_witness_set_fields :
    (withBs 0x0B#8).cfg.ok = true ∧ (withBs 0x0B#8).busy = false ∧ (withBs 0x0B#8).cfg.bsOnBit = 3
    ∧ ({ withBs 0x0B#8 with cfg := otherLayout }).cfg.ok = true := by decide +kernel

theorem test_witness_writes_accepted :
    (withBs 0x0F#8).busy = false ∧ [0xAA#8, 0xBB#8, 0xCC#8] ≠ ([] : List Byte) ∧ 4 = 10 % 6
    ∧ 2 = min [0xAA#8, 0xBB#8, 0xCC#8].length (6 - 4) := by decide

theorem test_witness_busy_sequencer :
    settling.busy = true ∧ settling.upc < settling.uprog.length ∧ settling.EngineMoves
    ∧ (settling.uprog[settling.upc]? = some (.clk true) → settling.CanRaise)
    ∧ (ninthEdge 0 .none 0 0xC5#8).EngineMoves ∧ (ninthEdge 0 .none 0 0xC5#8).CanRaise :=
  ⟨rfl, by decide +kernel, settling_moves, fun _ => .inr ⟨rfl, rfl⟩, ⟨rfl, ⟨rfl, rfl, rfl⟩, rfl⟩,
    .inl test_witness_ready.2.2.1⟩

/-- A delay owed; a read answered LOW; a read answered HIGH with reads left; a read answered HIGH at the bound. -/
theorem test_witness_acknowledge :
    settling.ackdly = true
    ∧ ({ settling with ackdly := false }).lineLevel = false
    ∧ ({ settling with ackdly := false, lineIn := [true] }).lineLevel = true
    ∧ settling.ackcnt + 1 ≠ settling.cfg.ackSettleMax
    ∧ ({ settling with ackcnt := 9 }).ackcnt + 1 = settling.cfg.ackSettleMax := by decide

theorem test_witness_idle_sequencer : State.reset.busy = false ∧ MicroStep.ackrd.toInstr = .uAckrd := ⟨rfl, rfl⟩

theorem test_witness_start_stop :
    (atLines true false).target.inframe = false ∧ (atLines true false).clkO = true ∧ (atLines true false).dioO = false :=
  ⟨rfl, rfl, rfl⟩

/-- The first and the last bit of a byte inside a frame, and a target outside one. -/
theorem test_witness_send_bit :
    (receiving 0 .none 0).target.inframe = true ∧ (receiving 0 .none 0).target.nbits < 8
    ∧ ({ (receiving 0 .none 0).target with nbits := 7 } : Target).nbits < 8
    ∧ (atLines true true).target.inframe = false := by decide

/-- The least bound, and the source's. -/
theorem test_witness_ack_phase :
    1 ≤ (answering 1 []).cfg.ackSettleMax ∧ 1 ≤ (answering 10 []).cfg.ackSettleMax
    ∧ (answering 1 []).target.Ready (answering 1 []).cfg := ⟨by decide, by decide, rfl, fun h => nomatch h⟩

/-- No HIGH answer before the LOW; as many as can be; and HIGH up to the bound. -/
theorem test_witness_ack_answers :
    0 < (answering 10 [false]).cfg.ackSettleMax
    ∧ (answering 10 [false]).lineIn = List.replicate 0 true ++ false :: []
    ∧ 9 < (answering 10 (List.replicate 9 true ++ [false])).cfg.ackSettleMax
    ∧ (answering 10 (List.replicate 9 true ++ [false])).lineIn = List.replicate 9 true ++ false :: []
    ∧ (answering 10 (List.replicate 10 true)).lineIn = List.replicate (answering 10 []).cfg.ackSettleMax true ++ [] := by
  decide

/-- Inside a frame, a byte for the last register, and one with the pointer past it; and outside a frame. -/
theorem test_witness_write_byte :
    1 ≤ (receiving 1 .addr 5).cfg.ackSettleMax ∧ (receiving 1 .addr 5).target.lost = false
    ∧ (receiving 1 .addr 5).target.inframe = true ∧ (receiving 1 .addr 5).target.nbits = 0
    ∧ (receiving 1 .addr 5).target.Takes defaultConfig 0x11#8
    ∧ (receiving 7 .addr 6).target.nbits = 0 ∧ ¬ (receiving 7 .addr 6).target.Takes defaultConfig 0x11#8
    ∧ base.target.inframe = false ∧ base.target.lost = false :=
  ⟨by decide, rfl, rfl, rfl, ⟨fun h => absurd h (by decide), fun _ => ⟨rfl, by decide⟩⟩, rfl,
    fun h => absurd (h.2 (by decide)).2 (by decide), rfl, rfl⟩

theorem test_witness_first_byte :
    (receiving 0 .none 0).cfg.ok = true ∧ (receiving 0 .none 0).target.inframe = true
    ∧ (receiving 0 .none 0).target.nbyte = 0 ∧ (receiving 0 .none 0).target.lost = false
    ∧ (0#3 : BitVec 3).toNat ≤ 5 ∧ (5#3 : BitVec 3).toNat ≤ 5 := by decide +kernel

/-- The first and the last register. -/
theorem test_witness_data_byte :
    (∀ ptr ∈ [0, 5], (receiving 1 .addr ptr).target.inframe = true ∧ (receiving 1 .addr ptr).target.nbyte ≠ 0
      ∧ (receiving 1 .addr ptr).target.kind = .addr ∧ (receiving 1 .addr ptr).target.ptr ≤ 5
      ∧ (receiving 1 .addr ptr).target.lost = false) := by decide

/-- Outside a frame; a data byte with the pointer at 6; the address code 6 first in a frame. -/
theorem test_witness_out_of_place :
    (Instr.dataByte 0x11#8).layer = .wire ∧ State.reset.target.lost = false ∧ State.reset.target.inframe = false
    ∧ encode defaultConfig (.dataByte 0x11#8) = .wire false 0x11#8 ∧ (receiving 7 .addr 6).target.inframe = true
    ∧ ¬ (receiving 7 .addr 6).target.Takes defaultConfig 0x11#8
    ∧ (receiving 0 .none 0).cfg = defaultConfig ∧ (receiving 0 .none 0).target.nbyte = 0 ∧ 5 < (6#3).toNat :=
  ⟨rfl, rfl, rfl, rfl, rfl, fun h => absurd (h.2 (by decide)).2 (by decide), rfl, rfl, by decide⟩

/-- A digit, a character in the map and one that is not (S3), a digit character, and admissible parameters. -/
theorem test_witness_encoder :
    State.reset.cfg.ok = true ∧ State.reset.cfg.charRom.lookup 0x48 = some 0x76#8
    ∧ State.reset.cfg.charRom.lookup 0x25 = none ∧ (9 : Nat) ≤ 9 ∧ (0x39 : Nat) = 0x30 + 9
    ∧ Config.recognisable 0x21 = false ∧ Config.recognisable 0x2F = false ∧ Config.recognisable 0x5B = false := by
  decide +kernel

/-- Two requests under the same parameters, in a busy block and in an idle one with `rst` asserted. -/
theorem test_witness_encoder_repeats :
    (asking (.string [0x48])).encIn = .string [0x48] :: []
    ∧ ({ base with rst := true, encIn := [.string [0x48]] } : State).encIn = .string [0x48] :: []
    ∧ ({ base with rst := true, encIn := [.string [0x48]] } : State).cfg = (asking (.string [0x48])).cfg :=
  ⟨rfl, rfl, rfl⟩

theorem test_witness_encode_string :
    [0x48, 0x69][1]? = some (0x69 : CharCode)
    ∧ ran (.encodeString [0x48, 0x69]) State.reset (fun t => t.encBytes.getLast? == some 0x10#8) = true := by
  decide

/-- A state that meets the invariant and takes a step, idle and busy. -/
theorem test_witness_invariant :
    Inv (offering t71) ∧ (∃ t, step (offering t71) = .next t) ∧ Inv settling ∧ ∃ t, step settling = .next t :=
  ⟨offering_inv t71, ⟨_, rfl⟩, settling_inv, _, rfl⟩

/-- `NEW` grows the trace by two events, a settle delay by one. -/
theorem test_witness_trace_grows :
    stepped (offering [0x01#8]) (fun t => t.trace == State.reset.trace ++ [.clk false, .dio false]) = true
    ∧ stepped settling (fun t => t.trace == settling.trace ++ [.dly]) = true := by decide +kernel

/-- A step that writes `bs`: by the input, and by each of the three operations. -/
theorem test_witness_brightness_written :
    stepped { withBs 0x00#8 with rst := true } (fun t => t.bs != 0x00#8) = true
    ∧ stepped { withBs 0x00#8 with cmdIn := [0x01#8] } (fun t => t.bs != 0x00#8) = true
    ∧ stepped { withBs 0x00#8 with cmdIn := [0x02#8, 0x01#8] } (fun t => t.bs != 0x00#8) = true
    ∧ stepped { withBs 0x00#8 with cmdIn := [0x03#8, 0x01#8] } (fun t => t.bs != 0x00#8) = true := by decide

/-- A busy block with bytes of the next command waiting. -/
theorem test_witness_bytes_wait :
    stepped { settling with cmdIn := t71 } (fun t => t.cmdIn == t71) = true ∧ settling.busy = true := by decide +kernel

/-- A step without a pin write, and one with one. -/
theorem test_witness_pin_writes :
    stepped settling (fun t => pinWrites t.trace == pinWrites settling.trace) = true
    ∧ stepped (running (.clk true)) (fun t => pinWrites t.trace == 1) = true := by decide +kernel

/-- A sequencer about to run the string of `ACK_PHASE`, with `STOP` behind it. -/
def atAckPhase : State :=
  { base.load (ackPhaseString ++ stopString) with lineIn := [true, false] }

theorem test_witness_primitive :
    atAckPhase.EngineMoves ∧ atAckPhase.busy = true ∧ 1 ≤ atAckPhase.cfg.ackSettleMax ∧ atAckPhase.ackcnt = 0
    ∧ atAckPhase.ackdly = false ∧ encode atAckPhase.cfg .ackPhase = .prim (ackPhaseString.map encodeMicro)
    ∧ atAckPhase.uprog.drop atAckPhase.upc
        = ackPhaseString ++ .dio false :: [.clk true, .dly, .dio true, .dly]
    ∧ ∃ t, exec .ackPhase atAckPhase = .next t :=
  ⟨⟨rfl, ⟨rfl, rfl, rfl⟩, rfl⟩, rfl, by decide, rfl, rfl, rfl, rfl, _, rfl⟩

/-- R29, R144: the seven steps of that string and its settle delay, compared with the rule of `ACK_PHASE`. -/
theorem test_ack_phase_agrees :
    (match runFor 7 atAckPhase with
      | .next t => ran .ackPhase atAckPhase (fun t' => t == { t' with upc := 5 })
      | .fault _ => false
      | .refused _ => false) = true := by decide +kernel

/-- An idle block, its target between frames, offered `WRITE_SEGMENTS_RAW` (T31) or `WRITE_DISPLAY_STATE` (T50). -/
theorem test_witness_whole_operations :
    Inv (offering t71) ∧ (offering t71).Offers t71Instr [] ∧ Inv (offering [0x06#8])
    ∧ (offering [0x06#8]).Offers .writeDisplayState [] :=
  ⟨offering_inv t71, offering_t71, offering_inv _, offering_moves _, rfl, rfl⟩

/-- Register 4, register 5, and one that is not written. -/
theorem test_witness_registers :
    0 < 2 ∧ [0xAA#8, 0xBB#8, 0xCC#8][0]? = some (0xAA#8 : Byte) ∧ 1 < 2
    ∧ [0xAA#8, 0xBB#8, 0xCC#8][1]? = some (0xBB#8 : Byte) ∧ (3 < 4 ∨ 4 + 2 ≤ 3) ∧ (6 < 4 ∨ 4 + 2 ≤ 6) := by decide

end Sys2Proof.Tests
end

/-! What the target sees of whole bytes and frames (R58, R59, R82): the frames of a host operation, run by the
sequencer from between two frames, end between two frames and give the target no byte whose effect is unspecified. -/

namespace Sys2Proof.Machine

/-! ## What keeps the target's own fields in range -/

/-- The part of the invariant that speaks of the target alone (R54, R57, R59). -/
structure Target.Sound (t : Target) : Prop where
  /-- The display registers are 0..5, each once, in order. -/
  dispWf : Memory.wf t.disp = true
  /-- `nbits` is 0..8. -/
  nbitsRange : t.nbits ≤ 8
  /-- `ptr` never exceeds 6 in an address frame. -/
  ptrRange : t.kind = .addr → t.ptr ≤ 6
  /-- The kind of a frame is known from its first byte on. -/
  kindKnown : t.kind = .none ↔ t.nbyte = 0

theorem Target.Sound.receive {t : Target} (h : t.Sound) (c : Config) (b : Byte) : (t.receive c b).Sound := by
  obtain ⟨hd, hn, hp, hk⟩ := h
  unfold Target.receive
  obtain ⟨h0, kind, ptr, tctl, hkind, hptr, e⟩ | ⟨h0, e⟩ | ⟨h0, haddr, hptr, e⟩ | ⟨h0, -, e⟩ := t.deliver_cases c b <;> rw [e]
  · exact ⟨hd, Nat.zero_le _, fun ha => Nat.le_succ_of_le (hptr ha), by simp [hkind]⟩
  · exact ⟨hd, Nat.zero_le _, by simp, by simp⟩
  · have hreg : t.ptr < Config.regCount := Nat.lt_succ_of_le hptr
    exact ⟨Memory.wf_write _ _ _ hreg hd, Nat.zero_le _, fun _ => hreg, by simp [haddr]⟩
  · exact ⟨hd, Nat.zero_le _, hp, by simp [hk, h0]⟩

theorem Target.Sound.onClk {t : Target} (h : t.Sound) (c : Config) (clk dio v : Level) : (t.onClk c clk dio v).Sound := by
  unfold Target.onClk
  split
  · split
    · next hn => exact ⟨h.dispWf, hn, h.ptrRange, h.kindKnown⟩
    · exact h.receive c t.cur
  · exact h

theorem Target.Sound.onDio {t : Target} (h : t.Sound) (clk dio v : Level) : (t.onDio clk dio v).Sound := by
  unfold Target.onDio
  split
  · split
    · exact ⟨h.dispWf, Nat.zero_le _, nofun, by simp [Target.startFrame]⟩
    · split
      · exact ⟨h.dispWf, h.nbitsRange, h.ptrRange, h.kindKnown⟩
      · exact h
  · exact h

theorem Target.Sound.after {v : View} (h : v.target.Sound) (c : Config) (u : MicroStep) : (v.after c u).target.Sound := by
  cases u with
  | clk l => exact h.onClk c v.clk v.dio l
  | dio l => exact h.onDio v.clk v.dio l
  | dly => exact h
  | ackrd => exact h

/-! ## The block's own bytes, at their places (R59, R83, R87, R88) -/

/-- The parts of `Config.ok` (92, parameters left OPEN) on which the three command bytes rest. -/
theorem config_ok_parts {c : Config} (h : c.ok = true) :
    1 ≤ c.ackSettleMax ∧ c.layoutOk = true ∧ c.commandsOk = true := by
  simp only [Config.ok, Config.timingOk, Bool.and_eq_true, decide_eq_true_eq] at h
  obtain ⟨⟨⟨⟨⟨hack, -⟩, hlayout⟩, hcommands⟩, -⟩, -⟩ := h
  exact ⟨hack, hlayout, hcommands⟩

/-- The six address commands do not wrap (R87). -/
theorem addrCmdByte_toNat {c : Config} (h : c.commandsOk = true) {p : Nat} (hp : p < 6) :
    (addrCmdByte c p).toNat = c.cmdAddrBase.toNat + p := by
  simp only [Config.commandsOk, Bool.and_eq_true, beq_iff_eq] at h
  obtain ⟨⟨⟨⟨hbase, -⟩, -⟩, -⟩, -⟩ := h
  have hmod : c.cmdAddrBase.toNat % 2 ^ 3 = 0 := by
    have := congrArg BitVec.toNat hbase
    rwa [BitVec.toNat_and, show (0x07#8).toNat = 2 ^ 3 - 1 from rfl, Nat.and_two_pow_sub_one_eq_mod] at this
  have := c.cmdAddrBase.isLt
  simp only [addrCmdByte, BitVec.toNat_add, BitVec.toNat_ofNat]
  omega

/-- No address command is the data command (R59). -/
theorem addrCmdByte_ne_data {c : Config} (h : c.commandsOk = true) {p : Nat} (hp : p < 6) :
    addrCmdByte c p ≠ c.cmdDataWriteAutoinc := by
  intro e
  have hnat := addrCmdByte_toNat h hp
  rw [e] at hnat
  simp only [Config.commandsOk, Bool.and_eq_true, Bool.not_eq_true', Bool.and_eq_false_iff, decide_eq_false_iff_not] at h
  obtain ⟨⟨⟨-, hapart⟩, -⟩, -⟩ := h
  omega

/-- The fixed bits of a display-control byte (R88). -/
theorem displayCtrlByte_fixed {c : Config} (h : c.commandsOk = true) (bs : Byte) :
    displayCtrlByte c bs &&& 0xF0#8 = c.cmdDisplayCtrl := by
  simp only [Config.commandsOk, Bool.and_eq_true, beq_iff_eq] at h
  obtain ⟨⟨⟨⟨-, hlow⟩, -⟩, -⟩, -⟩ := h
  have hbs : bs &&& 0x0F#8 &&& 0xF0#8 = 0#8 := by rw [BitVec.and_assoc]; exact BitVec.and_zero
  have hctrl : c.cmdDisplayCtrl &&& 0xF0#8 = c.cmdDisplayCtrl := by
    have hsplit : c.cmdDisplayCtrl &&& (0x0F#8 ||| 0xF0#8) = c.cmdDisplayCtrl := BitVec.and_allOnes
    rwa [BitVec.and_or_distrib_left, hlow, BitVec.zero_or] at hsplit
  rw [displayCtrlByte, BitVec.and_or_distrib_right, hbs, hctrl, BitVec.or_zero]

/-- The data command has an effect first in its frame. -/
theorem takes_dataCmdByte (c : Config) {t : Target} (h0 : t.nbyte = 0) : t.Takes c (dataCmdByte c) :=
  ⟨fun _ => ⟨.dataCmd, by simp [decodeWire]⟩, fun hne => absurd h0 hne⟩

/-- An address command has an effect first in its frame. -/
theorem takes_addrCmdByte {c : Config} (h : c.commandsOk = true) {t : Target} (h0 : t.nbyte = 0) {p : Nat} (hp : p < 6) :
    t.Takes c (addrCmdByte c p) := by
  have hnat := addrCmdByte_toNat h hp
  exact ⟨fun _ => ⟨_, by
    rw [decodeWire, dataCmdByte, if_pos rfl, if_neg (addrCmdByte_ne_data h hp), if_pos (by simp [isAddrCmd]; omega)]⟩,
    fun hne => absurd h0 hne⟩

/-- A display-control byte has an effect first in its frame. -/
theorem takes_displayCtrlByte {c : Config} (h : c.commandsOk = true) {t : Target} (h0 : t.nbyte = 0) (bs : Byte) :
    t.Takes c (displayCtrlByte c bs) := by
  refine ⟨fun _ => ?_, fun hne => absurd h0 hne⟩
  unfold decodeWire
  rw [if_pos rfl, displayCtrlByte_fixed h bs, if_pos rfl]
  split
  · exact ⟨_, rfl⟩
  · split <;> exact ⟨_, rfl⟩

/-- An address command sets the kind of the frame and the pointer (R59). -/
theorem receive_addrCmdByte {c : Config} (h : c.commandsOk = true) {t : Target} (h0 : t.nbyte = 0) {p : Nat} (hp : p < 6) :
    t.receive c (addrCmdByte c p) = { t with kind := .addr, ptr := p, nbits := 0, cur := 0#8, nbyte := 1 } := by
  have hnat := addrCmdByte_toNat h hp
  unfold Target.receive Target.deliver
  rw [if_pos h0, if_neg (addrCmdByte_ne_data h hp), if_pos (by omega), hnat, h0, Nat.add_sub_cancel_left]

/-- A data byte of an address frame goes to the register the pointer names (R59). -/
theorem receive_dataByte (c : Config) {t : Target} (b : Byte) (h0 : t.nbyte ≠ 0) (ha : t.kind = .addr) (hp : t.ptr ≤ 5) :
    t.receive c b = { t with
      disp := Memory.write t.disp t.ptr b, ptr := t.ptr + 1, nbits := 0, cur := 0#8, nbyte := t.nbyte + 1 } := by
  unfold Target.receive Target.deliver
  rw [if_neg h0, if_pos ⟨ha, hp⟩]

/-- The target after a sequence of bytes. -/
def Target.receiveAll (c : Config) (t : Target) (bytes : List Byte) : Target := bytes.foldl (Target.receive c) t

/-- R59 gives every byte of a sequence an effect at its place. -/
def Target.TakesAll (c : Config) : Target → List Byte → Prop
  | _, [] => True
  | t, b :: rest => t.Takes c b ∧ Target.TakesAll c (t.receive c b) rest

@[simp] theorem Target.receiveAll_cons (c : Config) (t : Target) (b : Byte) (rest : List Byte) :
    t.receiveAll c (b :: rest) = (t.receive c b).receiveAll c rest := rfl

/-- A received byte leaves the target in its frame, ready for the next one (R58). -/
@[simp] theorem Target.receive_inframe (c : Config) (t : Target) (b : Byte) : (t.receive c b).inframe = t.inframe :=
  (t.deliver_frame c b).1

/-- Bytes that all have an effect do not lose the target. -/
theorem Target.TakesAll.not_lost {c : Config} {bytes : List Byte} {t : Target} (h : t.TakesAll c bytes)
    (hl : t.lost = false) : (t.receiveAll c bytes).lost = false := by
  induction bytes generalizing t with
  | nil => exact hl
  | cons b rest ih => exact ih h.2 ((Target.deliver_lost_iff c t b).mpr ⟨hl, h.1⟩)

/-- The data bytes of an address frame all have an effect as long as the pointer stays at a register (R59). -/
theorem takesAll_dataBytes (c : Config) (bytes : List Byte) {t : Target} (h0 : t.nbyte ≠ 0) (ha : t.kind = .addr)
    (hp : t.ptr + bytes.length ≤ 6) : t.TakesAll c bytes := by
  induction bytes generalizing t with
  | nil => trivial
  | cons b rest ih =>
    rw [List.length_cons] at hp
    have hptr : t.ptr ≤ 5 := by omega
    refine ⟨⟨fun h => absurd h h0, fun _ => ⟨ha, hptr⟩⟩, ?_⟩
    rw [receive_dataByte c b h0 ha hptr]
    exact ih (Nat.succ_ne_zero _) ha (by show t.ptr + 1 + rest.length ≤ 6; omega)

/-! ## The frames of the host operations (R90, R163, R165) -/

/-- The frames that an operation which drives the wire sends. -/
def State.Sends (s : State) (frames : List (List Byte)) : Prop :=
  frames = displayFrames s.cfg s.bs
  ∨ ∃ position bytes, bytes ≠ [] ∧ frames = segmentFrames s.cfg s.bs position bytes

/-- A position and the length of the bytes sent from it stay within the registers (R91, R92). -/
theorem normPosition_add_clampedBytes_length (position : Nat) (bytes : List Byte) :
    normPosition position < 6
      ∧ normPosition position + (clampedBytes (normPosition position) bytes).length ≤ 6 := by
  have hp : normPosition position < 6 := Nat.mod_lt _ (by decide)
  refine ⟨hp, ?_⟩
  simp only [clampedBytes, effectiveLength, List.length_take, Config.regCount]
  omega

/-- Every byte of every frame has an effect at its place, whatever the target held before the frame (R59). -/
theorem State.Sends.takesAll {s : State} {frames : List (List Byte)} (h : s.Sends frames) (hc : s.cfg.commandsOk = true)
    {f : List Byte} (hf : f ∈ frames) (t : Target) : t.startFrame.TakesAll s.cfg f := by
  have hctrl : t.startFrame.TakesAll s.cfg [displayCtrlByte s.cfg s.bs] := ⟨takes_displayCtrlByte hc rfl _, trivial⟩
  obtain rfl | ⟨position, bytes, -, rfl⟩ := h
  · cases List.mem_singleton.mp hf; exact hctrl
  · obtain ⟨hp, hlen⟩ := normPosition_add_clampedBytes_length position bytes
    simp only [segmentFrames, displayFrames, List.mem_cons, List.not_mem_nil, or_false] at hf
    obtain rfl | rfl | rfl := hf
    · exact ⟨takes_dataCmdByte _ rfl, trivial⟩
    · refine ⟨takes_addrCmdByte hc rfl hp, ?_⟩
      rw [receive_addrCmdByte hc rfl hp]
      exact takesAll_dataBytes _ _ (Nat.succ_ne_zero 0) rfl hlen
    · exact hctrl

/-! ## What the target sees of the strings of micro-steps -/

/-- A bit cell on a target inside a frame sets the next bit of its byte (R142, R58). -/
theorem View.afterAll_sendBitString (c : Config) (v : View) (b : Level) (hf : v.target.inframe = true)
    (hn : v.target.nbits < 8) :
    v.afterAll c (sendBitString b)
      = ⟨true, b, { v.target with cur := setBit v.target.cur v.target.nbits b, nbits := v.target.nbits + 1 }⟩ := by
  simp [sendBitString, View.after, Target.onClk_bit, hf, hn]

/-- Eight bits, bit 0 first, are the byte (R50). -/
theorem setBit_eight (cur x : Byte) :
    setBit (setBit (setBit (setBit (setBit (setBit (setBit (setBit cur 0 x[0]) 1 x[1]) 2 x[2]) 3 x[3]) 4 x[4]) 5 x[5])
      6 x[6]) 7 x[7] = x := by
  refine BitVec.eq_of_getLsbD_eq fun i hi => ?_
  simp only [getLsbD_setBit _ _ _ i hi]
  have : i = 0 ∨ i = 1 ∨ i = 2 ∨ i = 3 ∨ i = 4 ∨ i = 5 ∨ i = 6 ∨ i = 7 := by omega
  obtain rfl | rfl | rfl | rfl | rfl | rfl | rfl | rfl := this <;> rfl

/-- The eight bit cells of a byte give the target that byte (R145). -/
theorem View.afterAll_bitCells (c : Config) (v : View) (x : Byte) (hf : v.target.inframe = true)
    (hn : v.target.nbits = 0) :
    v.afterAll c (bitCells x [0, 1, 2, 3, 4, 5, 6, 7])
      = ⟨true, x.getLsbD 7, { v.target with cur := x, nbits := 8 }⟩ := by
  simp [bitCells, View.afterAll_sendBitString, hf, hn, setBit_eight]

/-- `WRITE_BYTE_ACK` at the start of a byte delivers it (R145, R58). -/
theorem View.afterAll_writeByteString (c : Config) (v : View) (x : Byte) (hf : v.target.inframe = true)
    (hn : v.target.nbits = 0) :
    v.afterAll c (writeByteString x) = ⟨true, false, v.target.receive c x⟩ := by
  rw [writeByteString, View.afterAll_append, View.afterAll_bitCells c v x hf hn]
  simp only [ackPhaseString, View.afterAll_cons, View.afterAll_nil, View.after, Target.onClk_low, Target.onDio_low]
  rw [Target.onClk_ninth c { v.target with cur := x, nbits := 8 } false hf (Nat.lt_irrefl 8), Target.receive_congr]

/-- The bytes of a frame reach the target one after another (R51). -/
theorem View.afterAll_bytesString (c : Config) (bytes : List Byte) (t : Target) (hf : t.inframe = true)
    (hn : t.nbits = 0) :
    View.afterAll c ⟨true, false, t⟩ (bytesString bytes) = ⟨true, false, t.receiveAll c bytes⟩ := by
  induction bytes generalizing t with
  | nil => rfl
  | cons b rest ih =>
    rw [bytesString, View.afterAll_append, View.afterAll_writeByteString c _ b hf hn]
    exact ih (t.receive c b) (by simpa using hf) rfl

/-- `START` on a target outside a frame, at any line levels, starts a frame (R140). -/
theorem View.afterAll_startString (c : Config) (v : View) (hf : v.target.inframe = false) :
    v.afterAll c startString = ⟨true, false, v.target.startFrame⟩ := by
  simp [startString, View.after, Target.onDio_rise_outside, Target.onClk_outside, hf]

/-- `STOP` with the clock HIGH and the data line LOW ends the frame (R141). -/
theorem View.afterAll_stopString (c : Config) (t : Target) :
    View.afterAll c ⟨true, false, t⟩ stopString = ⟨true, true, { t with inframe := false }⟩ := by
  simp [stopString, View.after, Target.onDio_rise]

/-- A frame begun between two frames: the target starts it, takes its bytes and ends it (R82). -/
theorem View.afterAll_frameString (c : Config) (v : View) (bytes : List Byte) (hf : v.target.inframe = false) :
    v.afterAll c (frameString bytes)
      = ⟨true, true, { v.target.startFrame.receiveAll c bytes with inframe := false }⟩ := by
  rw [frameString, View.afterAll_append, View.afterAll_append, View.afterAll_startString c v hf,
    View.afterAll_bytesString c bytes _ rfl rfl, View.afterAll_stopString]

/-- Frames whose bytes all have an effect leave the target between two frames and not lost (R59, R146). -/
theorem View.afterAll_framesProgram (c : Config) (frames : List (List Byte)) (v : View)
    (htakes : ∀ f ∈ frames, ∀ t : Target, t.startFrame.TakesAll c f) (hf : v.target.inframe = false)
    (hl : v.target.lost = false) :
    (v.afterAll c (framesProgram frames)).target.inframe = false
      ∧ (v.afterAll c (framesProgram frames)).target.lost = false := by
  induction frames generalizing v with
  | nil => exact ⟨hf, hl⟩
  | cons f rest ih =>
    obtain ⟨hfirst, hrest⟩ := List.forall_mem_cons.mp htakes
    rw [framesProgram, View.afterAll_append, View.afterAll_frameString c v f hf]
    exact ih _ hrest rfl ((hfirst v.target).not_lost hl)

end Sys2Proof.Machine

/-! The invariant of the whole machine: it holds after reset, every step keeps it, and no step faults from a state that
meets it. -/

namespace Sys2Proof.Machine

/-! ## Host operations on an idle block -/

theorem loadSegments_of_ne {bytes : List Byte} (h : bytes ≠ []) (position : Position) (s : State) :
    loadSegments position bytes s = s.load (framesProgram (segmentFrames s.cfg s.bs position bytes)) := if_neg h

theorem writeSegmentsWhole_of_ne {bytes : List Byte} (h : bytes ≠ []) (position : Position) (s : State) :
    writeSegmentsWhole position bytes s = sendFrames (segmentFrames s.cfg s.bs position bytes) s := if_neg h

/-- The values that `SET_DISPLAY_STATE`, `SET_BRIGHTNESS` and an empty write leave in `bs` (R161, R162, R163). -/
def State.Sets (s : State) (bs : Byte) : Prop :=
  bs = s.bs ∨ (∃ on, bs = bsSetOn s.cfg s.bs on) ∨ ∃ level, bs = bsSetLevel s.cfg s.bs level

/-- What an idle block does with a host operation: it is over at once, as `NEW` or with at most `bs` set; or the program of its
frames is in flight. Either way its big-step reading says the same (R160 to R166). -/
theorem exec_host_idle {i : Instr} {s : State} (hl : i.layer = .host) (hb : s.busy = false) :
    (exec i s = .next (completed i s)
      ∧ (completed i s = afterNew s ∨ ∃ bs, s.Sets bs ∧ completed i s = { s with bs := bs }))
    ∨ ∃ frames, s.Sends frames ∧ exec i s = .next (s.load (framesProgram frames))
        ∧ completed i s = sendFrames frames s := by
  cases i with
  | new => exact .inl ⟨by simp [exec, execNew, completed, hb], .inl rfl⟩
  | setDisplayState on => exact .inl ⟨accept_idle _ hb, .inr ⟨_, .inr (.inl ⟨on, rfl⟩), rfl⟩⟩
  | setBrightness level => exact .inl ⟨accept_idle _ hb, .inr ⟨_, .inr (.inr ⟨level, rfl⟩), rfl⟩⟩
  | writeSegmentsRaw position bytes =>
    by_cases hbytes : bytes = []
    · subst hbytes
      exact .inl ⟨accept_idle _ hb, .inr ⟨s.bs, .inl rfl, rfl⟩⟩
    · refine .inr ⟨_, .inr ⟨position, bytes, hbytes, rfl⟩, ?_, writeSegmentsWhole_of_ne hbytes position s⟩
      rw [← loadSegments_of_ne hbytes]; exact accept_idle _ hb
  | writeSegmentRaw position byte =>
    exact .inr ⟨_, .inr ⟨position, [byte], by simp, rfl⟩, accept_idle _ hb, rfl⟩
  | writeDisplayState => exact .inr ⟨_, .inl rfl, accept_idle _ hb, rfl⟩
  | clear =>
    exact .inr ⟨_, .inr ⟨0, List.replicate Config.regCount 0x00#8, by simp, rfl⟩, accept_idle _ hb, rfl⟩
  | _ => simp [Instr.layer] at hl

/-- What is set into `bs` has bits 7:4 zero (R21). -/
theorem State.Sets.small {s : State} {bs : Byte} (h : s.Sets bs) (hc : s.cfg.layoutOk = true) (hs : s.bs.toNat < 16) :
    bs.toNat < 16 := by
  simp only [Config.layoutOk, Bool.or_eq_true, Bool.and_eq_true, beq_iff_eq] at hc
  have join : ∀ (x mask field : Byte), mask.toNat < 16 → field.toNat < 16 → (x &&& mask ||| field).toNat < 16 := by
    intro x mask field hm hf
    rw [BitVec.toNat_or, BitVec.toNat_and]
    exact Nat.or_lt_two_pow (n := 4) (Nat.and_lt_two_pow _ hm) hf
  obtain rfl | ⟨on, rfl⟩ | ⟨level, rfl⟩ := h
  · exact hs
  · refine join _ _ _ ?_ ?_ <;> obtain ⟨hon, hlsb⟩ | ⟨hon, hlsb⟩ := hc
    · simp [bsLevelMask, hlsb]
    · simp [bsLevelMask, hlsb]
    · cases on <;> simp [bsOnField, hon]
    · cases on <;> simp [bsOnField, hon]
  · refine join _ _ _ ?_ ?_ <;> obtain ⟨hon, hlsb⟩ | ⟨hon, hlsb⟩ := hc
    · simp [bsOnMask, hon]
    · simp [bsOnMask, hon]
    · have := level.isLt; simp [bsLevelField, hlsb]; omega
    · have := level.isLt; simp [bsLevelField, hlsb, Nat.shiftLeft_eq]; omega

/-- The program of an operation's frames has 1 to 435 micro-steps (R238). -/
theorem State.Sends.length {s : State} {frames : List (List Byte)} (h : s.Sends frames) :
    0 < (framesProgram frames).length ∧ (framesProgram frames).length ≤ 435 := by
  obtain rfl | ⟨position, bytes, -, rfl⟩ := h
  · simp [framesProgram, displayFrames]
  · have := normPosition_add_clampedBytes_length position bytes
    simp [framesProgram, segmentFrames, displayFrames]; omega

/-! ## The invariant, kept by each kind of step -/

/-- The invariant's part that speaks of the target alone. -/
theorem Inv.sound {s : State} (h : Inv s) : s.target.Sound := ⟨h.dispWf, h.nbitsRange, h.ptrRange, h.kindKnown⟩

/-- An idle block has no program, owes no delay, and its target is between two frames (R28, R29). -/
theorem Inv.idle {s : State} (h : Inv s) (hb : s.busy = false) :
    s.uprog = [] ∧ s.upc = 0 ∧ s.ackcnt = 0 ∧ s.ackdly = false ∧ s.target.inframe = false ∧ s.target.lost = false := by
  have hprog := h.idleProgram hb
  have hupc := h.upcRange
  have hack := h.ackOnlyInPhase
  have hframe := h.frameEnds
  simp only [hprog, List.length_nil, Nat.le_zero] at hupc
  simp only [hprog, List.getElem?_nil, ne_eq, reduceCtorEq, not_false_eq_true, forall_const] at hack
  rw [hprog, List.drop_nil] at hframe
  exact ⟨hprog, hupc, hack.1, hack.2, hframe⟩

/-- The invariant reads none of the ports. -/
theorem Inv.withPorts {s : State} (h : Inv s) (rst : Bool) (cmdIn : List Byte) (encIn : List EncRequest)
    (encOut : BitVec 32) (encBytes : List Byte) :
    Inv { s with rst := rst, cmdIn := cmdIn, encIn := encIn, encOut := encOut, encBytes := encBytes } := by
  obtain ⟨⟩ := h; constructor <;> assumption

/-- `NEW` on an idle block keeps the invariant (R160). -/
theorem Inv.afterNew {s : State} (h : Inv s) (hb : s.busy = false) : Inv (afterNew s) := by
  obtain ⟨-, -, -, -, hframe⟩ := h.idle hb
  have htarget : (Machine.afterNew s).target = s.target := by simp [Machine.afterNew, State.driveDio, State.driveClk]
  exact {
    cfgOk := h.cfgOk
    bsSmall := (by decide : bsReset.toNat < 16)
    idleProgram := fun _ => rfl
    upcRange := Nat.le_refl 0
    busyNext := nofun
    programShort := Nat.zero_le _
    ackBound := Nat.zero_lt_of_lt h.ackBound
    ackOwed := nofun
    ackOnlyInPhase := fun _ => ⟨rfl, rfl⟩
    dispWf := htarget ▸ h.dispWf
    nbitsRange := htarget ▸ h.nbitsRange
    frameEnds := by
      show (Machine.afterNew s).target.inframe = false ∧ (Machine.afterNew s).target.lost = false
      rwa [htarget]
    ptrRange := htarget ▸ h.ptrRange
    kindKnown := htarget ▸ h.kindKnown
    clkLatch := by simp [Machine.afterNew, State.driveDio, State.driveClk]
    dioLatch := by simp [Machine.afterNew, State.driveDio, State.driveClk] }

/-- An accepted program that ends the target's frames keeps the invariant. -/
theorem Inv.load {s : State} (h : Inv s) (hb : s.busy = false) {frames : List (List Byte)} (hs : s.Sends frames) :
    Inv (s.load (framesProgram frames)) := by
  obtain ⟨-, -, hcnt, hdly, hframe, hlost⟩ := h.idle hb
  obtain ⟨hpos, hshort⟩ := hs.length
  have hcommands := (config_ok_parts h.cfgOk).2.2
  exact { h with
    idleProgram := nofun
    upcRange := Nat.zero_le _
    busyNext := fun _ => hpos
    programShort := hshort
    ackOnlyInPhase := fun _ => ⟨hcnt, hdly⟩
    frameEnds := View.afterAll_framesProgram s.cfg frames s.view (fun _ hf => hs.takesAll hcommands hf) hframe hlost }

/-- A host operation keeps the invariant. -/
theorem Inv.host {s t : State} {i : Instr} (h : Inv s) (hl : i.layer = .host) (he : exec i s = .next t) : Inv t := by
  have hb := (exec_host_next hl he).1
  obtain ⟨hexec, hnew | ⟨bs, hset, hbs⟩⟩ | ⟨frames, hs, hexec, -⟩ := exec_host_idle hl hb <;> rw [hexec] at he <;> cases he
  · rw [hnew]; exact h.afterNew hb
  · rw [hbs]; exact { h with bsSmall := hset.small (config_ok_parts h.cfgOk).2.1 h.bsSmall }
  · exact h.load hb hs

/-- The end of a micro-step that is over keeps the invariant: the target has seen the micro-step, both registers of an
acknowledge phase are 0, the latches agree with its event, and the sequencer moves on (R29). -/
theorem Inv.movedOn {s : State} {u : MicroStep} (h : Inv s) (hu : s.uprog[s.upc]? = some u) {v : View}
    (hv : v = s.view.after s.cfg u) {e : Event} (hclk : noteClk (some s.clkO) e = some v.clk)
    (hdio : noteDio (some s.dioO) e = some v.dio) {cnt : Nat} {dly : Bool} (hcnt : cnt = 0) (hdly : dly = false)
    (lineIn : List Level) (draws : Nat) :
    Inv { s with
      clkO := v.clk, dioO := v.dio, target := v.target, ackcnt := cnt, ackdly := dly
      lineIn := lineIn, lineDraws := draws, trace := s.trace ++ [e] }.advance.finish := by
  subst hcnt hdly
  obtain ⟨hlt, hget⟩ := List.getElem?_eq_some_iff.mp hu
  have hsound : v.target.Sound := hv ▸ Target.Sound.after (v := s.view) h.sound s.cfg u
  have hframe := h.frameEnds
  rw [List.drop_eq_getElem_cons hlt, hget, View.afterAll_cons, ← hv] at hframe
  have hpos := Nat.zero_lt_of_lt h.ackBound
  rw [← h.clkLatch] at hclk
  rw [← h.dioLatch] at hdio
  by_cases hlast : s.upc + 1 = s.uprog.length
  · rw [State.finish_of_eq hlast]
    rw [hlast, List.drop_length, View.afterAll_nil] at hframe
    exact { h with
      idleProgram := fun _ => rfl
      upcRange := Nat.le_refl 0
      busyNext := nofun
      programShort := Nat.zero_le _
      ackBound := hpos
      ackOwed := nofun
      ackOnlyInPhase := fun _ => ⟨rfl, rfl⟩
      dispWf := hsound.dispWf
      nbitsRange := hsound.nbitsRange
      frameEnds := hframe
      ptrRange := hsound.ptrRange
      kindKnown := hsound.kindKnown
      clkLatch := (lastClk_append _ _).trans hclk
      dioLatch := (lastDio_append _ _).trans hdio }
  · have hnext : s.upc + 1 < s.uprog.length := by omega
    rw [State.finish_of_lt hnext]
    exact { h with
      upcRange := hlt
      busyNext := fun _ => hnext
      ackBound := hpos
      ackOwed := nofun
      ackOnlyInPhase := fun _ => ⟨rfl, rfl⟩
      dispWf := hsound.dispWf
      nbitsRange := hsound.nbitsRange
      frameEnds := hframe
      ptrRange := hsound.ptrRange
      kindKnown := hsound.kindKnown
      clkLatch := (lastClk_append _ _).trans hclk
      dioLatch := (lastDio_append _ _).trans hdio }

/-- One more turn of an acknowledge phase keeps the invariant: the sequencer stays at its micro-step, and nothing but the phase's
two registers, the answers left and the trace changes (R29). -/
theorem Inv.inPhase {s : State} (h : Inv s) (hu : s.uprog[s.upc]? = some .ackrd) {cnt : Nat} {dly : Bool}
    (hcnt : cnt < s.cfg.ackSettleMax) (hdly : dly = true → 1 ≤ cnt) {e : Event}
    (hclk : noteClk (some s.clkO) e = some s.clkO) (hdio : noteDio (some s.dioO) e = some s.dioO)
    (lineIn : List Level) (draws : Nat) :
    Inv { s with ackcnt := cnt, ackdly := dly, lineIn := lineIn, lineDraws := draws, trace := s.trace ++ [e] } := by
  rw [← h.clkLatch] at hclk
  rw [← h.dioLatch] at hdio
  exact { h with
    ackBound := hcnt
    ackOwed := hdly
    ackOnlyInPhase := fun hne => absurd hu hne
    clkLatch := (lastClk_append _ _).trans (hclk.trans h.clkLatch)
    dioLatch := (lastDio_append _ _).trans (hdio.trans h.dioLatch) }

/-- A turn of an acknowledge phase keeps the invariant (R29). -/
theorem Inv.ackrd {s : State} (h : Inv s) (hu : s.uprog[s.upc]? = some .ackrd) :
    Inv (if s.ackdly then { s.delay with ackdly := false } else ackRead s).finish := by
  have hlt : s.upc < s.uprog.length := (List.getElem?_eq_some_iff.mp hu).1
  have hbound := h.ackBound
  split
  · rw [State.finish_of_lt (s := { s.delay with ackdly := false }) hlt]
    exact h.inPhase hu hbound (dly := false) nofun (e := .dly) rfl rfl s.lineIn s.lineDraws
  · next hdly =>
    unfold ackRead
    split
    · exact h.movedOn hu (v := s.view) rfl (e := .rd s.lineLevel) rfl rfl rfl (by simpa using hdly) _ _
    · rw [State.finish_of_lt (s := { s.afterRead with ackcnt := s.ackcnt + 1, ackdly := true }) hlt]
      exact h.inPhase hu (by omega) (fun _ => Nat.le_add_left 1 _) (e := .rd s.lineLevel) rfl rfl _ _

/-- A micro-step keeps the invariant (R29). -/
theorem Inv.micro {s t : State} {u : MicroStep} (h : Inv s) (hu : s.uprog[s.upc]? = some u)
    (he : exec u.toInstr s = .next t) : Inv t := by
  have hphase : u ≠ .ackrd → s.ackcnt = 0 ∧ s.ackdly = false := fun hne => h.ackOnlyInPhase (by simpa [hu] using hne)
  obtain ⟨-, ⟨v, rfl, rfl, -⟩ | ⟨v, rfl, rfl⟩ | ⟨rfl, rfl⟩ | ⟨rfl, rfl⟩⟩ := exec_micro_next he
  · obtain ⟨hcnt, hdly⟩ := hphase nofun
    exact h.movedOn hu rfl (e := .clk v) rfl rfl hcnt hdly s.lineIn s.lineDraws
  · obtain ⟨hcnt, hdly⟩ := hphase nofun
    exact h.movedOn hu rfl (e := .dio v) rfl rfl hcnt hdly s.lineIn s.lineDraws
  · obtain ⟨hcnt, hdly⟩ := hphase nofun
    exact h.movedOn hu rfl (e := .dly) rfl rfl hcnt hdly s.lineIn s.lineDraws
  · exact h.ackrd hu

/-- Settles O46: each of the five things a step can do keeps the invariant. -/
theorem everyStepKeepsTheInvariant : Obligations.EveryStepKeepsTheInvariant := by
  intro s t h hstep
  obtain rfl | ⟨request, rest, -, he⟩ | ⟨-, -, -, hb, rfl⟩ | ⟨-, u, hu, he⟩ | ⟨i, rest, -, hl, he⟩ := step_next_cases hstep
  · exact h
  · rw [exec_lookup_next he]; exact h.withPorts _ _ _ _ _
  · exact (h.withPorts false s.cmdIn s.encIn s.encOut s.encBytes).afterNew hb
  · exact h.micro hu he
  · exact (h.withPorts s.rst rest s.encIn s.encOut s.encBytes).host hl he

/-- Settles O45: the fields of the reset state are those of the invariant, whatever the free values are. -/
theorem resetMeetsTheInvariant : Obligations.ResetMeetsTheInvariant where
  cfgOk := (by decide +kernel : defaultConfig.ok = true)
  bsSmall := (by decide : bsReset.toNat < 16)
  idleProgram := fun _ => rfl
  upcRange := Nat.le_refl 0
  busyNext := nofun
  programShort := Nat.zero_le _
  ackBound := (by decide : 0 < 10)
  ackOwed := nofun
  ackOnlyInPhase := fun _ => ⟨rfl, rfl⟩
  dispWf := Memory.wf_reset
  nbitsRange := Nat.zero_le _
  frameEnds := ⟨rfl, rfl⟩
  ptrRange := nofun
  kindKnown := ⟨fun _ => rfl, fun _ => rfl⟩
  clkLatch := rfl
  dioLatch := rfl

/-! ## Faults -/

theorem accept_ne_fault (s s' : State) (f : Fault) : accept s s' ≠ .fault f := by
  unfold accept; split <;> nofun

theorem watched_ne_fault (s : State) (f : Fault) : watched s ≠ .fault f := by
  unfold watched; split <;> nofun

theorem microStep_ne_fault (s s' : State) (f : Fault) : microStep s s' ≠ .fault f := by
  unfold microStep; split <;> nofun

/-- No instruction faults: "the block itself raises nothing" (R190). -/
theorem exec_ne_fault (i : Instr) (s : State) (f : Fault) : exec i s ≠ .fault f := by
  cases i with
  | new => simp only [exec, execNew]; split <;> nofun
  | setDisplayState | setBrightness | writeSegmentsRaw | writeSegmentRaw | writeDisplayState | clear =>
    exact accept_ne_fault _ _ f
  | encodeDigit | encodeNumber | encodeChar | encodeString | bitDelay => nofun
  | start | stop | sendBit | ackPhase | writeByteAck | dataCmd | addrCmd | displayCtrl | dataByte =>
    exact watched_ne_fault _ f
  | uClk1 =>
    simp only [exec, execUClk1]
    split
    · exact watched_ne_fault _ f
    · nofun
  | uClk0 | uDio0 | uDio1 | uDly | uAckrd => exact microStep_ne_fault _ _ f

/-- A step faults only where a busy sequencer has no next micro-step (R28, R29). -/
theorem step_fault {s : State} {f : Fault} (h : step s = .fault f) : s.busy = true ∧ s.uprog[s.upc]? = none := by
  unfold step at h
  split at h
  · cases h
  · next i s' _ => exact absurd h (exec_ne_fault i s' f)
  · cases h
  · next hfetch =>
    unfold fetch fetchEngine fetchMicro fetchCommand at hfetch
    (repeat' split at hfetch) <;> cases hfetch
    next hb _ hnone => exact ⟨hb, hnone⟩

/-- Settles O47: a busy sequencer that meets the invariant has a next micro-step. -/
theorem invariantRulesOutTheFault : Obligations.InvariantRulesOutTheFault := by
  intro s f h hstep
  obtain ⟨hb, hnone⟩ := step_fault hstep
  exact absurd (h.busyNext hb) (Nat.not_lt.mpr (List.getElem?_eq_none_iff.mp hnone))

end Sys2Proof.Machine

/-! What each micro-step does on a busy sequencer, and with it what a step of a busy sequencer does (R29); and which
operations write `bs` (R26). -/

namespace Sys2Proof.Machine

/-! ## A step of a busy sequencer -/

/-- When the engine moves, what is fetched is the engine's next move. -/
theorem fetch_engine {s : State} (hm : s.EngineMoves) :
    fetch s = if s.busy then fetchMicro s else fetchCommand s := by
  obtain ⟨henc, hpremises, hrst⟩ := hm
  simp [fetch, henc, fetchEngine, brokenPremise_none.mpr hpremises, hrst]

/-- Settles O7: nothing comes before the micro-step of a busy engine that moves. -/
theorem stepRunsTheNextMicroStep : Obligations.StepRunsTheNextMicroStep := by
  intro s u hm hb hu
  simp [step, fetch_engine hm, hb, fetchMicro, hu]

/-- Settles O28: each of the six micro-steps asks first whether the sequencer is busy. -/
theorem idleSequencerHasNoStep : Obligations.IdleSequencerHasNoStep := by
  intro s u hb
  cases u with
  | clk v =>
    cases v with
    | false => exact microStep_idle _ hb
    | true => simp [MicroStep.toInstr, exec, execUClk1, hb]
  | dio v => cases v <;> exact microStep_idle _ hb
  | dly => exact microStep_idle _ hb
  | ackrd => exact microStep_idle _ hb

/-! ## The six micro-steps -/

/-- Advancing and ending the program is what the sequencer does when a micro-step is over. -/
theorem sequencerMovedOn_finish {s s' : State} (hb : s'.busy = true) (hprog : s'.uprog = s.uprog)
    (hupc : s'.upc = s.upc) : SequencerMovedOn s s'.advance.finish := by
  unfold SequencerMovedOn
  split <;> next h => simp [hb, hprog, hupc, h]

/-- Moving on changes the sequencer's three registers alone (R29). -/
theorem advance_finish_frame (s : State) :
    s.advance.finish = { s with
      busy := s.advance.finish.busy, uprog := s.advance.finish.uprog, upc := s.advance.finish.upc } :=
  finish_frame s.advance

/-- `uCLK(1)` on a busy sequencer: the clock rises, unless that gives the target an unspecified byte (R58, U7). -/
theorem exec_uClk1_busy {s : State} (hb : s.busy = true) :
    (s.CanRaise → exec .uClk1 s = .next (s.driveClk true).advance.finish)
      ∧ (¬ s.CanRaise → exec .uClk1 s = .refused .targetUnspecified) := by
  have hexec : exec .uClk1 s = watched (s.driveClk true).advance.finish := if_pos hb
  have hlost : (s.driveClk true).advance.finish.target.lost = false ↔ s.CanRaise := by
    simpa using s.onClk_lost_iff s.dioO
  rw [hexec]
  exact ⟨fun h => watched_of_not_lost (hlost.mpr h), fun h => watched_of_lost (by simpa using mt hlost.mp h)⟩

/-- Settles O24: with the clock HIGH, or `CLK(0)`, there is no edge, so the target stays. -/
theorem clockMicroSteps : Obligations.ClockMicroSteps := by
  intro s hb
  refine ⟨⟨_, microStep_busy _ hb, sequencerMovedOn_finish hb rfl rfl, ?_⟩, fun hraise => ?_, (exec_uClk1_busy hb).2⟩
  · conv_lhs => rw [advance_finish_frame]
    simp [State.driveClk]
  · refine ⟨_, (exec_uClk1_busy hb).1 hraise, sequencerMovedOn_finish hb rfl rfl, ?_⟩
    conv_lhs => rw [advance_finish_frame]
    cases hclk : s.clkO <;> simp [State.driveClk, hclk]

/-- Settles O25, by the levels of the two lines before the write. -/
theorem dataMicroSteps : Obligations.DataMicroSteps := by
  intro s hb
  refine ⟨⟨_, microStep_busy _ hb, sequencerMovedOn_finish hb rfl rfl, ?_⟩,
    ⟨_, microStep_busy _ hb, sequencerMovedOn_finish hb rfl rfl, ?_⟩⟩ <;>
    conv_lhs => rw [advance_finish_frame]
  · cases hclk : s.clkO <;> cases hdio : s.dioO <;> simp [State.driveDio, Target.startFrame, hclk, hdio]
  · cases hclk : s.clkO <;> cases hdio : s.dioO <;> simp [State.driveDio, Target.onDio_rise, hclk, hdio]

/-- Settles O26: a delay is its mark in the trace. -/
theorem delayMicroStep : Obligations.DelayMicroStep := by
  intro s hb
  refine ⟨_, microStep_busy _ hb, sequencerMovedOn_finish hb rfl rfl, ?_⟩
  conv_lhs => rw [advance_finish_frame]
  rfl

/-- `uACKRD` on a busy sequencer: the settle delay that is owed, or a read (R29). -/
theorem exec_uAckrd_busy {s : State} (hb : s.busy = true) :
    exec .uAckrd s = .next (if s.ackdly then { s.delay with ackdly := false } else ackRead s).finish :=
  microStep_busy _ hb

/-- `uACKRD` with a settle delay owed: the delay, and the sequencer stays (R29). -/
theorem exec_uAckrd_owed {s : State} (hb : s.busy = true) (hlt : s.upc < s.uprog.length) (hdly : s.ackdly = true) :
    exec .uAckrd s = .next { s.delay with ackdly := false } := by
  rw [exec_uAckrd_busy hb, if_pos hdly, State.finish_of_lt (s := { s.delay with ackdly := false }) hlt]

/-- `uACKRD` with a read to make that is the phase's last: the phase is over, and the sequencer moves on (R29). -/
theorem exec_uAckrd_last {s : State} (hb : s.busy = true) (hdly : s.ackdly = false)
    (hlast : s.lineLevel = false ∨ s.ackcnt + 1 = s.cfg.ackSettleMax) :
    exec .uAckrd s = .next { s.afterRead with ackcnt := 0 }.advance.finish := by
  rw [exec_uAckrd_busy hb, if_neg (by simp [hdly]), ackRead, if_pos hlast]

/-- `uACKRD` with a read to make that is not the phase's last: a delay is owed, and the sequencer stays (R29). -/
theorem exec_uAckrd_more {s : State} (hb : s.busy = true) (hlt : s.upc < s.uprog.length) (hdly : s.ackdly = false)
    (hmore : ¬ (s.lineLevel = false ∨ s.ackcnt + 1 = s.cfg.ackSettleMax)) :
    exec .uAckrd s = .next { s.afterRead with ackcnt := s.ackcnt + 1, ackdly := true } := by
  rw [exec_uAckrd_busy hb, if_neg (by simp [hdly]), ackRead, if_neg hmore,
    State.finish_of_lt (s := { s.afterRead with ackcnt := s.ackcnt + 1, ackdly := true }) hlt]

/-- Settles O27: a delay owed, the last read of the phase, or a read with more to come. -/
theorem acknowledgeMicroStep : Obligations.AcknowledgeMicroStep := by
  intro s hb hlt
  refine ⟨exec_uAckrd_owed hb hlt, fun hdly => ?_⟩
  have hanswer : ∀ b l, s.lineIn = b :: l → s.lineLevel = b := fun _ _ => lineLevel_cons
  by_cases hlast : s.lineLevel = false ∨ s.ackcnt + 1 = s.cfg.ackSettleMax
  · have hover : (s.lineLevel && decide (s.ackcnt + 1 ≠ s.cfg.ackSettleMax)) = false := by
      rcases hlast with h | h <;> simp [h]
    refine ⟨_, s.lineLevel, exec_uAckrd_last hb hdly hlast, by simp, hanswer, ?_, by simp [hdly], ?_, ?_⟩
    · rw [hover]; simpa using hdly
    · rw [if_neg (by simp [hdly])]; exact sequencerMovedOn_finish hb rfl rfl
    · conv_lhs => rw [advance_finish_frame]
      simp [State.afterRead]
  · have hmore : (s.lineLevel && decide (s.ackcnt + 1 ≠ s.cfg.ackSettleMax)) = true := by
      simpa [not_or] using hlast
    exact ⟨_, s.lineLevel, exec_uAckrd_more hb hlt hdly hlast, rfl, hanswer, hmore.symm, rfl, ⟨hb, rfl, rfl⟩, rfl⟩

/-- Settles O29: the micro-step that the step runs issues one event, whichever of the six it is. -/
theorem sequencerIssuesOneEventAStep : Obligations.SequencerIssuesOneEventAStep := by
  intro s hm hb hlt hraise
  have hu := List.getElem?_eq_getElem hlt
  generalize s.uprog[s.upc] = u at hu
  rw [stepRunsTheNextMicroStep s u hm hb hu]
  cases u with
  | clk v =>
    cases v with
    | false => exact ⟨_, .clk false, microStep_busy _ hb, by simp⟩
    | true => exact ⟨_, .clk true, (exec_uClk1_busy hb).1 (hraise hu), by simp⟩
  | dio v =>
    cases v with
    | false => exact ⟨_, .dio false, microStep_busy _ hb, by simp⟩
    | true => exact ⟨_, .dio true, microStep_busy _ hb, by simp⟩
  | dly => exact ⟨_, .dly, microStep_busy _ hb, by simp⟩
  | ackrd =>
    obtain ⟨howed, hread⟩ := acknowledgeMicroStep s hb hlt
    cases hdly : s.ackdly with
    | true => exact ⟨_, .dly, howed hdly, rfl⟩
    | false =>
      obtain ⟨t, a, hexec, htrace, -⟩ := hread hdly
      exact ⟨t, .rd a, hexec, htrace⟩

/-! ## The brightness register -/

/-- No micro-step writes `bs` (R26). -/
theorem exec_micro_bs {u : MicroStep} {s t : State} (h : exec u.toInstr s = .next t) : t.bs = s.bs := by
  obtain ⟨-, ⟨v, -, rfl, -⟩ | ⟨v, -, rfl⟩ | ⟨-, rfl⟩ | ⟨-, rfl⟩⟩ := exec_micro_next h
  · simp
  · simp
  · simp
  · split
    · simp
    · rw [State.finish_bs, ackRead_frame]

/-- Settles O50: of the things a step can do, only the reset and the two setters leave another `bs`. -/
theorem onlyThreeOperationsWriteBrightness : Obligations.OnlyThreeOperationsWriteBrightness := by
  intro s t hstep hne
  obtain rfl | ⟨_, _, -, he⟩ | ⟨henc, -, hrst, hb, -⟩ | ⟨-, u, -, he⟩ | ⟨i, rest, ⟨hm, hb, hdec⟩, hl, he⟩ :=
    step_next_cases hstep
  · exact absurd rfl hne
  · exact absurd (congrArg State.bs (exec_lookup_next he)) hne
  · exact ⟨henc, hb, .inl hrst⟩
  · exact absurd (exec_micro_bs he) hne
  · refine ⟨hm.1, hb, .inr ⟨i, rest, hdec, ?_⟩⟩
    obtain ⟨-, ⟨rfl, -⟩ | ⟨on, rfl, -⟩ | ⟨level, rfl, -⟩ | rfl | ⟨program, rfl, -⟩⟩ := exec_host_next hl he
    · exact .inl rfl
    · exact .inr (.inl ⟨on, rfl⟩)
    · exact .inr (.inr ⟨level, rfl⟩)
    · exact absurd rfl hne
    · exact absurd rfl hne

/-- Settles O14: the fields of the reset state, one by one. -/
theorem resetStateIsThatOfTheTable : Obligations.ResetStateIsThatOfTheTable :=
  ⟨rfl, by decide, by decide, rfl, rfl, rfl, rfl, rfl, rfl, rfl, rfl⟩

end Sys2Proof.Machine

/-! The sequencer's run, one pin event a step, and the rules of the primitives and of the whole operations, which issue
their events at once: "the two agree" (R29).

A micro-step's whole effect outside the sequencer is `perform`: `uACKRD`'s is a whole acknowledge phase. The rules are folds of
`perform` over their strings, and a run of the sequencer through a string reaches what the fold gives. -/

namespace Sys2Proof.Machine

/-! ## The sequencer's registers, apart from the rest of the state -/

/-- The sequencer's five registers (R28). -/
structure Sequencer where
  busy : Bool
  uprog : List MicroStep
  upc : Nat
  ackcnt : Nat
  ackdly : Bool

/-- The sequencer of a state. -/
def State.sequencer (s : State) : Sequencer := ⟨s.busy, s.uprog, s.upc, s.ackcnt, s.ackdly⟩

/-- `s` with the sequencer `q`. -/
def State.inSeq (s : State) (q : Sequencer) : State :=
  { s with busy := q.busy, uprog := q.uprog, upc := q.upc, ackcnt := q.ackcnt, ackdly := q.ackdly }

/-- Between acknowledge phases, the next micro-step that of index `i` of `program`. -/
def Sequencer.running (program : List MicroStep) (i : Nat) : Sequencer := ⟨true, program, i, 0, false⟩

@[simp] theorem State.inSeq_sequencer (s : State) : s.inSeq s.sequencer = s := rfl

/-! ## The whole effect of a micro-step, and of a string -/

/-- What a micro-step does to all but the sequencer, an acknowledge phase taken whole (R29, R144). -/
def State.perform (s : State) : MicroStep → State
  | .clk v => s.driveClk v
  | .dio v => s.driveDio v
  | .dly => s.delay
  | .ackrd => settle s.cfg.ackSettleMax s

/-- What a string of micro-steps does to all but the sequencer. -/
def State.performAll (s : State) (string : List MicroStep) : State := string.foldl State.perform s

@[simp] theorem State.performAll_cons (s : State) (u : MicroStep) (string : List MicroStep) :
    s.performAll (u :: string) = (s.perform u).performAll string := rfl

@[simp] theorem State.performAll_append (s : State) (a b : List MicroStep) :
    s.performAll (a ++ b) = (s.performAll a).performAll b := List.foldl_append

/-- The reads of an acknowledge phase change the answers left and the trace alone (R144). -/
theorem settle_frame (n : Nat) (s : State) :
    settle n s = { s with
      lineIn := (settle n s).lineIn, lineDraws := (settle n s).lineDraws, trace := (settle n s).trace } := by
  induction n generalizing s with
  | zero => rfl
  | succ n ih =>
    unfold settle
    split
    · rfl
    · rw [ih]; rfl

/-- The reads of an acknowledge phase are the same whatever the sequencer holds. -/
theorem settle_inSeq (n : Nat) (s : State) (q : Sequencer) : settle n (s.inSeq q) = (settle n s).inSeq q := by
  induction n generalizing s with
  | zero => rfl
  | succ n ih =>
    have hlevel : (s.inSeq q).lineLevel = s.lineLevel := rfl
    unfold settle
    rw [hlevel]
    split
    · rfl
    · exact ih s.afterRead.delay

/-- A micro-step's effect leaves alone all that neither line, target nor answer is. -/
theorem State.perform_frame (s : State) (u : MicroStep) :
    s.perform u = { s with
      clkO := (s.perform u).clkO, dioO := (s.perform u).dioO, target := (s.perform u).target
      lineIn := (s.perform u).lineIn, lineDraws := (s.perform u).lineDraws, trace := (s.perform u).trace } := by
  cases u with
  | clk v => rfl
  | dio v => rfl
  | dly => rfl
  | ackrd => unfold State.perform; rw [settle_frame]

@[simp] theorem State.perform_cfg (s : State) (u : MicroStep) : (s.perform u).cfg = s.cfg := by
  rw [State.perform_frame]

theorem State.EngineMoves.perform {s : State} (h : s.EngineMoves) (u : MicroStep) : (s.perform u).EngineMoves := by
  rw [State.perform_frame]; exact h

theorem State.perform_inSeq (s : State) (q : Sequencer) (u : MicroStep) :
    (s.inSeq q).perform u = (s.perform u).inSeq q := by
  cases u with
  | clk v => rfl
  | dio v => rfl
  | dly => rfl
  | ackrd => exact settle_inSeq _ s q

/-- What the target sees of a micro-step's effect. -/
theorem State.perform_view (s : State) (u : MicroStep) : (s.perform u).view = s.view.after s.cfg u := by
  cases u with
  | clk v => rfl
  | dio v => rfl
  | dly => rfl
  | ackrd => unfold State.perform; rw [settle_frame]; rfl

theorem State.performAll_inSeq (s : State) (q : Sequencer) (string : List MicroStep) :
    (s.inSeq q).performAll string = (s.performAll string).inSeq q := by
  induction string generalizing s with
  | nil => rfl
  | cons u string ih => rw [State.performAll_cons, State.perform_inSeq, ih]; rfl

/-- A string's effect leaves the sequencer alone. -/
theorem State.performAll_sequencer (s : State) (string : List MicroStep) :
    (s.performAll string).inSeq s.sequencer = s.performAll string :=
  (s.performAll_inSeq s.sequencer string).symm

theorem State.performAll_view (s : State) (string : List MicroStep) :
    (s.performAll string).view = s.view.afterAll s.cfg string := by
  induction string generalizing s with
  | nil => rfl
  | cons u string ih =>
    rw [State.performAll_cons, ih, State.perform_view, State.perform_cfg, View.afterAll_cons]

/-- A string that leaves the target not lost began with a target not lost. -/
theorem State.not_lost_of_performAll {s : State} {string : List MicroStep}
    (h : (s.performAll string).target.lost = false) : s.target.lost = false := by
  by_contra hl
  have hview : (s.performAll string).target = (s.view.afterAll s.cfg string).target :=
    congrArg View.target (s.performAll_view string)
  rw [hview, View.afterAll_lost _ _ _ (by simpa [State.view] using hl)] at h
  cases h

/-! ## Runs of the machine -/

/-- `t` is reached from `s` in at most `n` steps. -/
def State.Reaches (n : Nat) (s t : State) : Prop := ∃ k, k ≤ n ∧ runFor k s = .next t

theorem runFor_succ {s t : State} (h : step s = .next t) (k : Nat) : runFor (k + 1) s = runFor k t := by
  have hcore : Sys2Proof.core.step s = .next t := h
  simp only [runFor, Host.Core.run, hcore]; rfl

theorem State.Reaches.refl (s : State) : State.Reaches 0 s s := ⟨0, Nat.le_refl 0, rfl⟩

theorem State.Reaches.step {n : Nat} {s s' t : State} (h : step s = .next s') (hr : State.Reaches n s' t) :
    State.Reaches (n + 1) s t := by
  obtain ⟨k, hk, hrun⟩ := hr
  exact ⟨k + 1, Nat.succ_le_succ hk, (runFor_succ h k).trans hrun⟩

theorem State.Reaches.one {s t : State} (h : Machine.step s = .next t) : State.Reaches 1 s t :=
  State.Reaches.step h (State.Reaches.refl t)

/-- A run goes on from the state that it has reached. -/
theorem runFor_add {k : Nat} {s t : State} (h : runFor k s = .next t) (l : Nat) : runFor (k + l) s = runFor l t := by
  induction k generalizing s with
  | zero => cases h; rw [Nat.zero_add]
  | succ k ih =>
    cases hstep : step s with
    | next s' =>
      rw [runFor_succ hstep] at h
      rw [Nat.succ_add_eq_add_succ, Nat.add_succ, runFor_succ hstep, ih h]
    | fault f => simp [runFor, Host.Core.run, show Sys2Proof.core.step s = .fault f from hstep] at h
    | refused r => simp [runFor, Host.Core.run, show Sys2Proof.core.step s = .refused r from hstep] at h

theorem State.Reaches.trans {m n : Nat} {s t u : State} (h : State.Reaches m s t) (h' : State.Reaches n t u) :
    State.Reaches (m + n) s u := by
  obtain ⟨k, hk, hrun⟩ := h
  obtain ⟨l, hl, hrun'⟩ := h'
  exact ⟨k + l, Nat.add_le_add hk hl, (runFor_add hrun l).trans hrun'⟩

/-! ## The sequencer runs a string -/

/-- The greatest number of steps that a string takes: one a micro-step, and two more for each read of an acknowledge phase after
its first (R238). -/
def stepBound (c : Config) (string : List MicroStep) : Nat :=
  string.length + 2 * (c.ackSettleMax - 1) * string.count .ackrd

theorem stepBound_append (c : Config) (a b : List MicroStep) :
    stepBound c (a ++ b) = stepBound c a + stepBound c b := by
  simp only [stepBound, List.length_append, List.count_append]; ring

/-- A step of a sequencer that the engine moves runs its next micro-step (R29). -/
theorem step_inSeq {s : State} {q : Sequencer} {u : MicroStep} (hm : s.EngineMoves) (hq : q.busy = true)
    (hu : q.uprog[q.upc]? = some u) : step (s.inSeq q) = exec u.toInstr (s.inSeq q) :=
  stepRunsTheNextMicroStep (s.inSeq q) u hm hq hu

/-- The sequencer at an acknowledge micro-step, `c` reads made and `n + 1` left, reads to the end of the phase (R29, R144). -/
theorem reaches_settle (n : Nat) {s : State} {program : List MicroStep} {i c : Nat} (hm : s.EngineMoves)
    (hi : program[i]? = some .ackrd) (hc : c + (n + 1) = s.cfg.ackSettleMax) :
    State.Reaches (2 * n + 1) (s.inSeq ⟨true, program, i, c, false⟩)
      ((settle (n + 1) s).inSeq (.running program (i + 1))).finish := by
  have hlt : i < program.length := (List.getElem?_eq_some_iff.mp hi).1
  induction n generalizing s c with
  | zero =>
    have hend : settle (0 + 1) s = s.afterRead := if_pos (.inr rfl)
    rw [hend]
    refine State.Reaches.one ?_
    rw [step_inSeq hm rfl hi]
    exact exec_uAckrd_last (s := s.inSeq ⟨true, program, i, c, false⟩) rfl rfl (.inr hc)
  | succ n ih =>
    cases hread : s.lineLevel with
    | false =>
      have hend : settle (n + 1 + 1) s = s.afterRead := if_pos (.inl hread)
      rw [hend]
      refine ⟨1, Nat.le_add_left 1 _, runFor_succ ?_ 0⟩
      rw [step_inSeq hm rfl hi]
      exact exec_uAckrd_last (s := s.inSeq ⟨true, program, i, c, false⟩) rfl rfl (.inl hread)
    | true =>
      have hmore : settle (n + 1 + 1) s = settle (n + 1) s.afterRead.delay := if_neg (by simp [hread])
      rw [hmore]
      refine State.Reaches.step (s' := s.afterRead.inSeq ⟨true, program, i, c + 1, true⟩) ?_
        (State.Reaches.step (s' := s.afterRead.delay.inSeq ⟨true, program, i, c + 1, false⟩) ?_
          (ih (c := c + 1) hm (by show c + 1 + (n + 1) = s.cfg.ackSettleMax; omega)))
      · rw [step_inSeq hm rfl hi]
        exact exec_uAckrd_more (s := s.inSeq ⟨true, program, i, c, false⟩) rfl hlt rfl (by
          show ¬ (s.lineLevel = false ∨ c + 1 = s.cfg.ackSettleMax); simp [hread]; omega)
      · rw [step_inSeq (s := s.afterRead) hm rfl hi]
        exact exec_uAckrd_owed (s := s.afterRead.inSeq ⟨true, program, i, c + 1, true⟩) rfl hlt rfl

/-- The sequencer runs a micro-step, or the acknowledge phase that it stands for, to its effect and moves on (R29). -/
theorem reaches_perform {s : State} {program : List MicroStep} {i : Nat} {u : MicroStep} (hm : s.EngineMoves)
    (hi : program[i]? = some u) (hack : 1 ≤ s.cfg.ackSettleMax)
    (hl : u = .clk true → (s.perform u).target.lost = false) :
    State.Reaches (stepBound s.cfg [u]) (s.inSeq (.running program i))
      ((s.perform u).inSeq (.running program (i + 1))).finish := by
  have hrun := step_inSeq (q := .running program i) hm rfl hi
  have hb : (s.inSeq (.running program i)).busy = true := rfl
  cases u with
  | clk v =>
    refine State.Reaches.one (hrun.trans ?_)
    cases v with
    | false => exact microStep_busy _ hb
    | true => exact (exec_uClk1_busy hb).1 ((s.onClk_lost_iff s.dioO).mp (hl rfl))
  | dio v => refine State.Reaches.one (hrun.trans ?_); cases v <;> exact microStep_busy _ hb
  | dly => exact State.Reaches.one (hrun.trans (microStep_busy _ hb))
  | ackrd =>
    have hreads := reaches_settle (s.cfg.ackSettleMax - 1) (c := 0) hm hi (by omega)
    rw [Nat.sub_add_cancel hack] at hreads
    have hbound : stepBound s.cfg [.ackrd] = 2 * (s.cfg.ackSettleMax - 1) + 1 := by
      simp [stepBound, Nat.add_comm]
    rw [hbound]
    exact hreads

/-- The sequencer runs a string of its program to the string's effect: its next micro-step is the one after the string, or the
block is idle if there is none (R29). -/
theorem reaches_performAll (string : List MicroStep) {s : State} {program rest : List MicroStep} {i : Nat}
    (hm : s.EngineMoves) (hdrop : program.drop i = string ++ rest) (hne : string ++ rest ≠ [])
    (hack : 1 ≤ s.cfg.ackSettleMax) (hl : .clk true ∈ string → (s.performAll string).target.lost = false) :
    State.Reaches (stepBound s.cfg string) (s.inSeq (.running program i))
      ((s.performAll string).inSeq (.running program (i + string.length))).finish := by
  have hlt : i < program.length := by
    by_contra h
    exact hne (hdrop ▸ List.drop_eq_nil_of_le (Nat.le_of_not_lt h))
  induction string generalizing s i with
  | nil =>
    have hfinish : (s.inSeq (.running program i)).finish = s.inSeq (.running program i) := State.finish_of_lt hlt
    show State.Reaches 0 _ (s.inSeq (.running program i)).finish
    rw [hfinish]
    exact State.Reaches.refl _
  | cons u string ih =>
    rw [List.drop_eq_getElem_cons hlt, List.cons_append, List.cons.injEq] at hdrop
    obtain ⟨hu, hdrop⟩ := hdrop
    have hfirst := reaches_perform (u := u) hm (List.getElem?_eq_some_iff.mpr ⟨hlt, hu⟩) hack
      (fun hclk => State.not_lost_of_performAll (hl (by simp [hclk])))
    by_cases hend : string ++ rest = []
    · obtain ⟨rfl, rfl⟩ := List.append_eq_nil_iff.mp hend
      exact hfirst
    · have hnext : i + 1 < program.length := by
        by_contra h
        exact hend (hdrop ▸ List.drop_eq_nil_of_le (Nat.le_of_not_lt h))
      rw [State.finish_of_lt (s := (s.perform u).inSeq (.running program (i + 1))) hnext] at hfirst
      have hrest := ih (hm.perform u) hdrop hend (by simpa using hack)
        (fun hclk => hl (List.mem_cons_of_mem u hclk)) hnext
      rw [State.perform_cfg, Nat.add_assoc, Nat.add_comm 1] at hrest
      rw [← List.singleton_append, stepBound_append]
      exact hfirst.trans hrest

/-! ## The primitives are the effects of their strings (R140 to R145) -/

theorem start_eq_performAll (s : State) : start s = s.performAll startString := rfl

theorem stop_eq_performAll (s : State) : stop s = s.performAll stopString := rfl

theorem sendBit_eq_performAll (b : Level) (s : State) : sendBit b s = s.performAll (sendBitString b) := rfl

theorem ackPhase_eq_performAll (s : State) : ackPhase s = s.performAll ackPhaseString := rfl

theorem writeByteAck_eq_performAll (x : Byte) (s : State) : writeByteAck x s = s.performAll (writeByteString x) := by
  rw [writeByteAck, writeByteString, State.performAll_append, ← ackPhase_eq_performAll]
  simp [sendBits, bitCells, sendBit_eq_performAll]

/-- The code of a micro-step names it (R96). -/
theorem decodeMicro_encodeMicro (u : MicroStep) : decodeMicro (encodeMicro u) = .ok u := by
  cases u with
  | clk v => cases v <;> rfl
  | dio v => cases v <;> rfl
  | dly => rfl
  | ackrd => rfl

theorem encodeMicro_injective : Function.Injective encodeMicro := fun u u' h =>
  Except.ok.inj ((decodeMicro_encodeMicro u).symm.trans ((congrArg decodeMicro h).trans (decodeMicro_encodeMicro u')))

/-- A transport primitive that answers a next state has the effect of its string, and if it raises the clock it has not lost the
target (R29, U7). -/
theorem exec_prim_next {c : Config} {i : Instr} {string : List MicroStep} {s t : State}
    (hstring : encode c i = .prim (string.map encodeMicro)) (h : exec i s = .next t) :
    t = s.performAll string ∧ (.clk true ∈ string → t.target.lost = false) := by
  have strings : ∀ {string' : List MicroStep}, Code.prim (string'.map encodeMicro) = .prim (string.map encodeMicro) →
      string' = string := fun h => List.map_injective_iff.mpr encodeMicro_injective (Code.prim.inj h)
  have raises : ∀ {s' : State}, s' = s.performAll string → watched s' = .next t →
      t = s.performAll string ∧ (.clk true ∈ string → t.target.lost = false) := by
    intro s' hs' hw
    obtain ⟨hl, rfl⟩ := watched_next.mp hw
    exact ⟨hs', fun _ => hl⟩
  cases i with
  | start => obtain rfl := strings hstring; exact raises rfl h
  | stop => obtain rfl := strings hstring; exact raises rfl h
  | sendBit b => obtain rfl := strings hstring; exact raises rfl h
  | ackPhase => obtain rfl := strings hstring; exact raises rfl h
  | writeByteAck x => obtain rfl := strings hstring; exact raises (writeByteAck_eq_performAll x s) h
  | bitDelay => obtain rfl := strings hstring; cases h; exact ⟨rfl, by simp [bitDelayString]⟩
  | _ => cases hstring

/-- Settles O54: a primitive has the effect of its string, which is what the sequencer reaches. -/
theorem sequencerRunsAPrimitiveAsItsRule : Obligations.SequencerRunsAPrimitiveAsItsRule := by
  intro s t i string next rest hm hb hack hcnt hdly hstring hdrop hexec
  obtain ⟨rfl, hl⟩ := exec_prim_next hstring hexec
  have hseq : s.sequencer = .running s.uprog s.upc := by simp [State.sequencer, Sequencer.running, hb, hcnt, hdly]
  have hlt : s.upc + string.length < s.uprog.length := by
    have := congrArg List.length hdrop
    simp only [List.length_drop, List.length_append, List.length_cons] at this
    omega
  obtain ⟨k, -, hrun⟩ := reaches_performAll string hm hdrop (by simp) hack hl
  refine ⟨k, ?_⟩
  rw [← hseq, State.inSeq_sequencer,
    State.finish_of_lt (s := (s.performAll string).inSeq (.running s.uprog (s.upc + string.length))) hlt] at hrun
  rw [hrun, ← s.performAll_sequencer string, hseq]
  rfl

/-! ## Whole operations -/

theorem sendBytes_eq_performAll (bytes : List Byte) (s : State) : sendBytes bytes s = s.performAll (bytesString bytes) := by
  induction bytes generalizing s with
  | nil => rfl
  | cons b rest ih => rw [sendBytes, ih, writeByteAck_eq_performAll, bytesString, State.performAll_append]

theorem sendFrame_eq_performAll (bytes : List Byte) (s : State) : sendFrame bytes s = s.performAll (frameString bytes) := by
  rw [sendFrame, stop_eq_performAll, sendBytes_eq_performAll, start_eq_performAll, frameString,
    State.performAll_append, State.performAll_append]

/-- The big-step reading of frames is the effect of their program (R163, R165). -/
theorem sendFrames_eq_performAll (frames : List (List Byte)) (s : State) :
    sendFrames frames s = s.performAll (framesProgram frames) := by
  induction frames generalizing s with
  | nil => rfl
  | cons f rest ih => rw [sendFrames, ih, sendFrame_eq_performAll, framesProgram, State.performAll_append]

/-- A byte has one acknowledge phase (R145). -/
theorem count_ackrd_writeByteString (x : Byte) : (writeByteString x).count .ackrd = 1 := rfl

theorem count_ackrd_bytesString (bytes : List Byte) : (bytesString bytes).count .ackrd = bytes.length := by
  induction bytes with
  | nil => rfl
  | cons b rest ih => rw [bytesString, List.count_append, count_ackrd_writeByteString, ih, List.length_cons, Nat.add_comm]

theorem count_ackrd_frameString (bytes : List Byte) : (frameString bytes).count .ackrd = bytes.length := by
  simp [frameString, List.count_append, count_ackrd_bytesString, startString, stopString]

/-- The frames of an operation take at most 435 steps and 18 for each read of a phase after its first (R238). -/
theorem State.Sends.stepBound_le {s : State} {frames : List (List Byte)} (h : s.Sends frames) (c : Config) :
    stepBound c (framesProgram frames) ≤ 435 + 18 * (c.ackSettleMax - 1) := by
  have hlen := h.length.2
  have hreads : (framesProgram frames).count .ackrd ≤ 9 := by
    obtain rfl | ⟨position, bytes, -, rfl⟩ := h
    · simp [framesProgram, displayFrames, count_ackrd_frameString]
    · have := normPosition_add_clampedBytes_length position bytes
      simp [framesProgram, segmentFrames, displayFrames, count_ackrd_frameString]; omega
  have hphases := Nat.mul_le_mul_left (2 * (c.ackSettleMax - 1)) hreads
  unfold stepBound
  omega

/-- An idle block whose operation's frames are accepted runs them to their end and is idle again (R29). -/
theorem reaches_sendFrames {s : State} {frames : List (List Byte)} (h : Inv s) (hm : s.EngineMoves) (hb : s.busy = false)
    (hs : s.Sends frames) :
    State.Reaches (435 + 18 * (s.cfg.ackSettleMax - 1)) (s.load (framesProgram frames)) (sendFrames frames s)
      ∧ (sendFrames frames s).busy = false := by
  obtain ⟨hprog, hupc, hcnt, hdly, hframe, hlost⟩ := h.idle hb
  obtain ⟨hack, -, hcommands⟩ := config_ok_parts h.cfgOk
  have hseq : s.sequencer = ⟨false, [], 0, 0, false⟩ := by simp [State.sequencer, hb, hprog, hupc, hcnt, hdly]
  have hload : s.load (framesProgram frames) = s.inSeq (.running (framesProgram frames) 0) := by
    simp [State.load, State.inSeq, Sequencer.running, hcnt, hdly]
  have hend : (s.performAll (framesProgram frames)).target.lost = false := by
    have hview := congrArg View.target (s.performAll_view (framesProgram frames))
    have hends := View.afterAll_framesProgram s.cfg frames s.view (fun _ hf => hs.takesAll hcommands hf) hframe hlost
    exact (congrArg Target.lost hview).trans hends.2
  have hkeep := s.performAll_sequencer (framesProgram frames)
  rw [hseq] at hkeep
  obtain ⟨k, hk, hrun⟩ := reaches_performAll (framesProgram frames) (program := framesProgram frames) (rest := [])
    (i := 0) hm (by simp) (by simpa using List.ne_nil_of_length_pos hs.length.1) hack (fun _ => hend)
  rw [State.finish_of_eq (by exact Nat.zero_add _), ← hload] at hrun
  rw [sendFrames_eq_performAll, ← hkeep]
  exact ⟨⟨k, hk.trans (hs.stepBound_le s.cfg), hrun⟩, rfl⟩

/-- When an idle block is offered a command, a step runs it (R84). -/
theorem step_offered {s : State} {i : Instr} {rest : List Byte} (h : s.Offers i rest) :
    step s = exec i { s with cmdIn := rest } := by
  obtain ⟨hm, hb, hdec⟩ := h
  simp [step, fetch_engine hm, hb, fetchCommand, hdec]

/-- Settles O55: an operation is over in the step that accepts it, or the sequencer runs its frames to their end. -/
theorem hostOperationsRunToCompletion : Obligations.HostOperationsRunToCompletion := by
  intro s i rest h hoffer
  have hstep := step_offered hoffer
  obtain ⟨hm, hb, hdec⟩ := hoffer
  obtain ⟨hexec, hdone⟩ | ⟨frames, hs, hexec, hdone⟩ :=
    exec_host_idle (s := { s with cmdIn := rest }) (decodeHost_layer hdec) hb <;> rw [hexec] at hstep
  · refine ⟨1, Nat.le_add_right 1 _, runFor_succ hstep 0, ?_⟩
    obtain hnew | ⟨bs, -, hbs⟩ := hdone
    · rw [hnew]; rfl
    · rw [hbs]; exact hb
  · obtain ⟨⟨k, hk, hrun⟩, hidle⟩ :=
      reaches_sendFrames (s := { s with cmdIn := rest }) (h.withPorts s.rst rest s.encIn s.encOut s.encBytes) hm hb hs
    rw [hdone]
    exact ⟨k + 1, by rw [Nat.add_comm]; exact Nat.add_le_add_left hk 1, (runFor_succ hstep k).trans hrun, hidle⟩

end Sys2Proof.Machine

/-! The wire bytes as the target receives them (R58, R59), and the rules of every step that concern the target, the trace, the
parameters and the launch premises (R62, R64, R65, R235). -/

namespace Sys2Proof.Machine

/-! ## A received byte (R58, R59, U7) -/

/-- Outside a frame a byte has no effect (R58). -/
theorem receiveByte_outside {s : State} (hf : s.target.inframe = false) (hl : s.target.lost = false) (b : Byte) :
    receiveByte b s = .next s := by
  rw [receiveByte, if_neg (by simp [hf])]
  exact watched_of_not_lost hl

/-- A byte that has an effect at its place is received (R59). -/
theorem receiveByte_of_takes {s : State} {b : Byte} (hf : s.target.inframe = true) (hl : s.target.lost = false)
    (ht : s.target.Takes s.cfg b) :
    receiveByte b s = .next { s with target := s.target.receive s.cfg b } := by
  rw [receiveByte, if_pos hf]
  exact watched_of_not_lost ((Target.deliver_lost_iff s.cfg s.target b).mpr ⟨hl, ht⟩)

/-- A byte whose effect is unspecified at its place is refused (U7). -/
theorem receiveByte_of_not_takes {s : State} {b : Byte} (hf : s.target.inframe = true)
    (ht : ¬ s.target.Takes s.cfg b) : receiveByte b s = .refused .targetUnspecified := by
  rw [receiveByte, if_pos hf]
  exact watched_of_lost (Bool.eq_true_of_not_eq_false fun h => ht ((Target.deliver_lost_iff s.cfg s.target b).mp h).2)

/-! ## The commands, first in a frame (R59, R83, R88) -/

/-- The data command sets the kind of the frame (R59). -/
theorem receive_dataCmdByte (c : Config) {t : Target} (h0 : t.nbyte = 0) :
    t.receive c (dataCmdByte c) = { t with kind := .dataCmd, nbits := 0, cur := 0#8, nbyte := 1 } := by
  unfold Target.receive Target.deliver
  rw [if_pos h0, if_pos (show dataCmdByte c = c.cmdDataWriteAutoinc from rfl), h0]

/-- Bits 7:4 of a byte are those of its value over 16. -/
theorem and_high_nibble_congr {x y : Byte} (h : x.toNat / 16 = y.toNat / 16) : x &&& 0xF0#8 = y &&& 0xF0#8 := by
  refine BitVec.eq_of_getLsbD_eq fun i hi => ?_
  rw [BitVec.getLsbD_and, BitVec.getLsbD_and]
  by_cases hlow : i < 4
  · have hzero : (0xF0#8).getLsbD i = false := by revert i; decide
    simp [hzero]
  · have hbit : ∀ z : Byte, z.getLsbD i = (z.toNat / 16).testBit (i - 4) := by
      intro z
      rw [show 16 = 2 ^ 4 from rfl, Nat.testBit_div_two_pow, Nat.sub_add_cancel (by omega)]
      rfl
    rw [hbit x, hbit y, h]

/-- A byte with the fixed bits of a display-control byte is not the data command (R59). -/
theorem ne_data_of_displayCtrl {c : Config} (h : c.commandsOk = true) {b : Byte} (hb : b &&& 0xF0#8 = c.cmdDisplayCtrl) :
    b ≠ c.cmdDataWriteAutoinc := by
  rintro rfl
  simp [Config.commandsOk, hb] at h

/-- Nor is it an address command (R59, R87). -/
theorem not_addr_of_displayCtrl {c : Config} (h : c.commandsOk = true) {b : Byte} (hb : b &&& 0xF0#8 = c.cmdDisplayCtrl) :
    ¬ (c.cmdAddrBase.toNat ≤ b.toNat ∧ b.toNat ≤ c.cmdAddrBase.toNat + 5) := by
  rintro ⟨hlo, hhi⟩
  simp only [Config.commandsOk, Bool.and_eq_true, beq_iff_eq, bne_iff_ne] at h
  obtain ⟨⟨⟨⟨hbase, -⟩, -⟩, -⟩, hne⟩ := h
  have hmod : c.cmdAddrBase.toNat % 2 ^ 3 = 0 := by
    rw [← Nat.and_two_pow_sub_one_eq_mod]
    exact congrArg BitVec.toNat hbase
  exact hne ((and_high_nibble_congr (by omega)).trans hb)

/-- A display-control byte carries the low nibble of `bs` (R88). -/
theorem bsNibble_displayCtrlByte {c : Config} (h : c.commandsOk = true) (bs : Byte) :
    bsNibble (displayCtrlByte c bs) = bsNibble bs := by
  simp only [Config.commandsOk, Bool.and_eq_true, beq_iff_eq] at h
  obtain ⟨⟨⟨⟨-, hlow⟩, -⟩, -⟩, -⟩ := h
  refine BitVec.eq_of_getLsbD_eq fun i hi => ?_
  have hbit := congrArg (BitVec.getLsbD · i) hlow
  have hone : (0x0F#8).getLsbD i = true := by clear hbit; revert i; decide
  simp only [BitVec.getLsbD_and, hone, Bool.and_true, BitVec.getLsbD_zero] at hbit
  simp only [bsNibble, displayCtrlByte, BitVec.getLsbD_setWidth, BitVec.getLsbD_or, BitVec.getLsbD_and, hone, hbit,
    Bool.and_true, Bool.false_or]

/-- A display-control byte sets the kind of the frame and `tctl` (R59). -/
theorem receive_displayCtrlByte {c : Config} (h : c.commandsOk = true) {t : Target} (h0 : t.nbyte = 0) (bs : Byte) :
    t.receive c (displayCtrlByte c bs)
      = { t with kind := .ctrl, tctl := bsNibble bs, nbits := 0, cur := 0#8, nbyte := 1 } := by
  have hfixed := displayCtrlByte_fixed h bs
  unfold Target.receive Target.deliver
  rw [if_pos h0, if_neg (ne_data_of_displayCtrl h hfixed), if_neg (not_addr_of_displayCtrl h hfixed), if_pos hfixed,
    bsNibble_displayCtrlByte h, h0]

/-! ## The wire instructions at their places -/

/-- A wire instruction is the receipt of its byte (R83, R87 to R89). -/
theorem exec_of_encode_wire {s : State} {i : Instr} {first : Bool} {b : Byte} (h : encode s.cfg i = .wire first b) :
    exec i s = receiveByte b s := by
  cases i with
  | dataCmd | addrCmd | displayCtrl | dataByte => cases h; rfl
  | _ => cases h

/-- A wire instruction has a byte (R80). -/
theorem encode_of_layer_wire (c : Config) {i : Instr} (h : i.layer = .wire) : ∃ first b, encode c i = .wire first b := by
  cases i with
  | dataCmd | addrCmd | displayCtrl | dataByte => exact ⟨_, _, rfl⟩
  | _ => cases h

/-- Settles O37: each of the three commands has an effect first in its frame, which is that of R59. -/
theorem firstByteOfAFrameIsACommand : Obligations.FirstByteOfAFrameIsACommand := by
  intro s hok hf h0 hl
  obtain ⟨-, -, hc⟩ := config_ok_parts hok
  refine ⟨?_, fun p hp => ?_, fun on level => ?_⟩
  · exact (receiveByte_of_takes hf hl (takes_dataCmdByte s.cfg h0)).trans (by rw [receive_dataCmdByte s.cfg h0])
  · have hp : p.toNat < 6 := Nat.lt_succ_of_le hp
    exact (receiveByte_of_takes hf hl (takes_addrCmdByte hc h0 hp)).trans (by rw [receive_addrCmdByte hc h0 hp])
  · exact (receiveByte_of_takes hf hl (takes_displayCtrlByte hc h0 _)).trans (by rw [receive_displayCtrlByte hc h0])

/-- Settles O38: the byte is written to the register the pointer names, and a write leaves the other registers alone. -/
theorem dataByteGoesToTheAddressedRegister : Obligations.DataByteGoesToTheAddressedRegister := by
  intro s d hf h0 ha hp hl
  have htakes : s.target.Takes s.cfg d := ⟨fun h => absurd h h0, fun _ => ⟨ha, hp⟩⟩
  refine ⟨_, receiveByte_of_takes hf hl htakes, ?_⟩
  rw [receive_dataByte s.cfg d h0 ha hp]
  exact ⟨rfl, Memory.read_write_same _ _ d, fun a hne => Memory.read_write_other _ d hne⟩

/-- The default address codes past 5 are no commands (R97). -/
theorem decodeWire_default_addr_past {p : BitVec 3} (hp : 5 < p.toNat) :
    decodeWire defaultConfig true (addrCmdByte defaultConfig p.toNat)
      = .error (.unknownCommand (addrCmdByte defaultConfig p.toNat)) := by
  revert p; decide

/-- Settles O39: a wire instruction is the receipt of its byte, which is without effect outside a frame and refused where its
effect is unspecified. -/
theorem wireBytesOutOfPlace : Obligations.WireBytesOutOfPlace := by
  refine ⟨fun s i hi hl hf => ?_, fun s i first b _ he hf ht => ?_, fun s p hcfg hf h0 hp => ?_⟩
  · obtain ⟨first, b, he⟩ := encode_of_layer_wire s.cfg hi
    rw [exec_of_encode_wire he]
    exact receiveByte_outside hf hl b
  · rw [exec_of_encode_wire he]
    exact receiveByte_of_not_takes hf ht
  · refine receiveByte_of_not_takes hf fun ht => ?_
    obtain ⟨i, hi⟩ := ht.1 h0
    rw [hcfg, decodeWire_default_addr_past hp] at hi
    cases hi

/-! ## The ninth edge (R58) -/

/-- The two fields of `bs`, read and packed again, are its low nibble (R21). -/
theorem bsPack_fields {c : Config} (h : c.layoutOk = true) (b : Byte) :
    bsPack c (bsOn c b) (bsLevel c b) = b &&& 0x0F#8 := by
  simp only [Config.layoutOk, Bool.or_eq_true, Bool.and_eq_true, beq_iff_eq] at h
  refine BitVec.eq_of_getLsbD_eq fun i hi => ?_
  obtain ⟨hon, hlsb⟩ | ⟨hon, hlsb⟩ := h <;> interval_cases i <;>
    simp [bsPack, bsOnField, bsLevelField, bsOn, bsLevel, hon, hlsb]

/-- A byte that decodes to a wire instruction is that instruction's byte (R83, R87 to R89). -/
theorem encode_of_decodeWire {c : Config} (h : c.layoutOk = true) {first : Bool} {b : Byte} {i : Instr}
    (hd : decodeWire c first b = .ok i) : encode c i = .wire first b := by
  unfold decodeWire at hd
  split at hd
  · next hfirst =>
    subst hfirst
    split at hd
    · next hb => cases hd; rw [hb]; rfl
    · split at hd
      · next haddr =>
        cases hd
        simp only [isAddrCmd, Bool.and_eq_true, decide_eq_true_eq] at haddr
        obtain ⟨hlo, hhi⟩ := haddr
        refine congrArg (Code.wire true) (BitVec.eq_of_toNat_eq ?_)
        have := b.isLt
        simp only [addrCmdByte, BitVec.toNat_add, BitVec.toNat_ofNat, BitVec.toNat_setWidth, BitVec.toNat_sub]
        omega
      · split at hd
        · next hctrl =>
          cases hd
          refine congrArg (Code.wire true) ?_
          rw [displayCtrlByte, bsPack_fields h, ← hctrl, BitVec.and_assoc, BitVec.and_self, ← BitVec.and_or_distrib_left]
          exact BitVec.and_allOnes
        · cases hd
  · next hfirst => cases hd; rw [Bool.eq_false_of_not_eq_true hfirst]; rfl

/-- Settles O13: the ninth edge delivers the byte received, and the byte's instruction is its receipt. -/
theorem ninthEdgeRunsTheReceivedWireByte : Obligations.NinthEdgeRunsTheReceivedWireByte := by
  intro s hok hb hclk hf hn
  obtain ⟨hraise, hrefuse⟩ := exec_uClk1_busy hb
  have hedge : s.target.onClk s.cfg s.clkO s.dioO true = s.target.receive s.cfg s.target.cur := by
    rw [hclk]; exact Target.onClk_ninth s.cfg s.target s.dioO hf (by omega)
  have hcan : s.CanRaise ↔ (s.target.receive s.cfg s.target.cur).lost = false := by
    rw [← hedge]; exact (s.onClk_lost_iff s.dioO).symm
  refine ⟨fun t i hd he => ?_, fun ht => hrefuse fun h => ?_⟩
  · rw [exec_of_encode_wire (encode_of_decodeWire (config_ok_parts hok).2.1 hd)] at he
    obtain ⟨hl, ⟨hout, -⟩ | ⟨-, rfl⟩⟩ := receiveByte_next he
    · exact absurd (hf.symm.trans hout) (by decide)
    · exact ⟨_, hraise (hcan.mpr hl), by simpa using hedge⟩
  · exact ht ((Target.deliver_lost_iff s.cfg s.target s.target.cur).mp (hcan.mp h)).2

/-! ## What a step refuses -/

/-- A lookup is always answered (R130). -/
theorem exec_lookup_completes (c : Config) (request : EncRequest) (s : State) :
    ∃ t, exec (decodeEnc c request) s = .next t := by
  cases request with
  | string chars => exact ⟨_, rfl⟩
  | beat sel input => unfold decodeEnc; dsimp only; split <;> exact ⟨_, rfl⟩

/-- A busy sequencer refuses a rising clock edge alone, and that only where it gives the target an
unspecified byte (R29, U7). -/
theorem exec_micro_refused {u : MicroStep} {s : State} {r : Refusal} (hb : s.busy = true)
    (h : exec u.toInstr s = .refused r) : u = .clk true ∧ ¬ s.CanRaise := by
  cases u with
  | clk v =>
    cases v with
    | false => cases (microStep_busy _ hb).symm.trans h
    | true => exact ⟨rfl, fun hraise => nomatch ((exec_uClk1_busy hb).1 hraise).symm.trans h⟩
  | dio v => cases v <;> cases (microStep_busy _ hb).symm.trans h
  | dly => cases (microStep_busy _ hb).symm.trans h
  | ackrd => cases (microStep_busy _ hb).symm.trans h

/-- What is refused before any instruction runs is a broken premise or a reserved opcode (R98, R235). -/
theorem fetch_ne_refuse_unspecified (s : State) : fetch s ≠ .refuse .targetUnspecified := by
  have hpremise : brokenPremise s ≠ some .targetUnspecified := by
    unfold brokenPremise; (repeat' split) <;> nofun
  intro h
  unfold fetch fetchEngine fetchMicro fetchCommand at h
  (repeat' split at h) <;> cases h
  next hbroken => exact hpremise hbroken

/-- A step gives the target an unspecified byte only in a rising clock edge of the sequencer (U7). -/
theorem step_unspecified {s : State} (h : step s = .refused .targetUnspecified) :
    s.uprog[s.upc]? = some (.clk true) ∧ ¬ s.CanRaise := by
  unfold step at h
  split at h
  · cases h
  · next i s' hfetch =>
    obtain ⟨request, rest, -, rfl, rfl⟩ | ⟨-, -, -, rfl, rfl⟩ | ⟨-, hb, u, hu, rfl, rfl⟩ | ⟨rest, ⟨-, hb, hd⟩, rfl⟩ :=
      fetch_run hfetch
    · obtain ⟨t, ht⟩ := exec_lookup_completes s.cfg request { s with encIn := rest }
      cases ht.symm.trans h
    · simp only [exec, execNew] at h
      split at h <;> cases h
    · obtain ⟨rfl, hraise⟩ := exec_micro_refused hb h
      exact ⟨hu, hraise⟩
    · obtain ⟨he, -⟩ | ⟨_, -, he, -⟩ := exec_host_idle (s := { s with cmdIn := rest }) (decodeHost_layer hd) hb <;>
        cases he.symm.trans h
  · next hfetch => cases h; exact absurd hfetch (fetch_ne_refuse_unspecified s)
  · cases h

/-- The invariant lets the sequencer raise the clock: the rest of the program does not lose the target (R59, R82). -/
theorem Inv.canRaise {s : State} (h : Inv s) (hu : s.uprog[s.upc]? = some (.clk true)) : s.CanRaise := by
  obtain ⟨hlt, hget⟩ := List.getElem?_eq_some_iff.mp hu
  obtain ⟨-, hlost⟩ := h.frameEnds
  rw [List.drop_eq_getElem_cons hlt, hget, View.afterAll_cons] at hlost
  refine (s.onClk_lost_iff s.dioO).mp (Bool.eq_false_of_not_eq_true fun hl => ?_)
  exact absurd (hlost.symm.trans (View.afterAll_lost s.cfg _ (s.view.after s.cfg (.clk true)) hl)) (by decide)

/-- Settles O48: the one step that could give such a byte is a rising edge, which the invariant allows. -/
theorem noByteIsUnspecified : Obligations.NoByteIsUnspecified := by
  intro s h hstep
  obtain ⟨hu, hraise⟩ := step_unspecified hstep
  exact hraise (h.canRaise hu)

/-! ## What a step leaves alone -/

/-- A micro-step issues one event; the target changes only if that is a pin write (R28, R29, R58). -/
theorem exec_micro_event {u : MicroStep} {s t : State} (h : exec u.toInstr s = .next t) :
    ∃ e, t.trace = s.trace ++ [e] ∧ (isPinWrite e = false → t.target = s.target) := by
  obtain ⟨-, ⟨v, -, rfl, -⟩ | ⟨v, -, rfl⟩ | ⟨-, rfl⟩ | ⟨-, rfl⟩⟩ := exec_micro_next h
  · exact ⟨.clk v, by simp, nofun⟩
  · exact ⟨.dio v, by simp, nofun⟩
  · exact ⟨.dly, by simp, fun _ => by simp⟩
  · split
    · exact ⟨.dly, by simp, fun _ => by simp⟩
    · refine ⟨.rd s.lineLevel, ?_, fun _ => ?_⟩
      · rw [State.finish_trace, ackRead_frame]
      · rw [State.finish_target, ackRead_frame]

/-- No micro-step changes a parameter or a launch premise (R65, R235). -/
theorem exec_micro_cfg_env {u : MicroStep} {s t : State} (h : exec u.toInstr s = .next t) :
    t.cfg = s.cfg ∧ t.env = s.env := by
  obtain ⟨-, ⟨v, -, rfl, -⟩ | ⟨v, -, rfl⟩ | ⟨-, rfl⟩ | ⟨-, rfl⟩⟩ := exec_micro_next h
  · simp
  · simp
  · simp
  · split
    · simp
    · rw [State.finish_cfg, State.finish_env, ackRead_frame]; exact ⟨rfl, rfl⟩

/-- Everything a step does to the trace: nothing, and then the target stays; the two events of `NEW`; or one event, and the
target stays if that is no pin write (R28, R58, R160). -/
theorem step_events {s t : State} (h : step s = .next t) :
    (t.trace = s.trace ∧ t.target = s.target)
    ∨ t.trace = s.trace ++ [.clk false, .dio false]
    ∨ ∃ e, t.trace = s.trace ++ [e] ∧ (isPinWrite e = false → t.target = s.target) := by
  have hnew : ∀ s' : State, (afterNew s').trace = s'.trace ++ [.clk false, .dio false] := fun s' => by simp [afterNew]
  obtain rfl | ⟨request, rest, -, he⟩ | ⟨-, -, -, -, rfl⟩ | ⟨-, u, -, he⟩ | ⟨i, rest, -, hl, he⟩ := step_next_cases h
  · exact .inl ⟨rfl, rfl⟩
  · rw [exec_lookup_next he]; exact .inl ⟨rfl, rfl⟩
  · exact .inr (.inl (hnew _))
  · exact .inr (.inr (exec_micro_event he))
  · obtain ⟨-, ⟨-, rfl⟩ | ⟨on, -, rfl⟩ | ⟨level, -, rfl⟩ | rfl | ⟨program, rfl, -⟩⟩ := exec_host_next hl he
    · exact .inr (.inl (hnew _))
    all_goals exact .inl ⟨rfl, rfl⟩

/-- Settles O49: a step's events are none, the two of `NEW`, or one. -/
theorem traceOnlyGrows : Obligations.TraceOnlyGrows := by
  intro s t hstep
  obtain ⟨htrace, -⟩ | htrace | ⟨e, htrace, -⟩ := step_events hstep
  · exact ⟨[], by simpa using htrace, .inl (Nat.zero_le 1)⟩
  · exact ⟨_, htrace, .inr rfl⟩
  · exact ⟨[e], htrace, .inl (Nat.le_refl 1)⟩

/-- Settles O53: a step's events are none, or two pin writes, or one event that is then no pin write. -/
theorem targetChangesOnlyWithAPinWrite : Obligations.TargetChangesOnlyWithAPinWrite := by
  intro s t hstep hcount
  obtain ⟨-, htarget⟩ | htrace | ⟨e, htrace, htarget⟩ := step_events hstep
  · exact htarget
  · rw [htrace, pinWrites_append] at hcount
    exact absurd (Nat.add_eq_left.mp hcount) (by decide)
  · rw [htrace, pinWrites_append] at hcount
    refine htarget (Bool.eq_false_of_not_eq_true fun hpin => ?_)
    have hone : pinWrites [e] = 1 := by simp [pinWrites, hpin]
    omega

/-- Settles O51: none of the five things a step can do writes `cfg` or `env`. -/
theorem stepsKeepParametersAndPremises : Obligations.StepsKeepParametersAndPremises := by
  intro s t hstep
  obtain rfl | ⟨request, rest, -, he⟩ | ⟨-, -, -, -, rfl⟩ | ⟨-, u, -, he⟩ | ⟨i, rest, -, hl, he⟩ := step_next_cases hstep
  · exact ⟨rfl, rfl⟩
  · rw [exec_lookup_next he]; exact ⟨rfl, rfl⟩
  · exact ⟨rfl, rfl⟩
  · exact exec_micro_cfg_env he
  · obtain ⟨-, ⟨-, rfl⟩ | ⟨on, -, rfl⟩ | ⟨level, -, rfl⟩ | rfl | ⟨program, rfl, -⟩⟩ := exec_host_next hl he <;>
      exact ⟨rfl, rfl⟩

end Sys2Proof.Machine

/-! The layers' decoders read back what the encoder writes (R80), and what an idle block does with the host's bytes (R84,
R98). -/

namespace Sys2Proof.Machine

/-! ## Host commands (R84 to R86) -/

/-- The operands of `WRITE_SEGMENTS_RAW` are read from the bytes that hold them, whatever follows them. -/
theorem decodeSegments_bytesOfNat {c : Config} {position : Position} {bytes : List Byte}
    (hp : position < 2 ^ c.posWidth) (hn : bytes.length < 2 ^ c.lenWidth) (rest : List Byte) :
    decodeSegments c (bytesOfNat (operandBytes c.posWidth) position
        ++ (bytesOfNat (operandBytes c.lenWidth) bytes.length ++ (bytes ++ rest)))
      = .ok (.writeSegmentsRaw position bytes, rest) := by
  simp [decodeSegments, takeOperand_bytesOfNat _ _ _ hp, takeOperand_bytesOfNat _ _ _ hn]

/-- The operands of `WRITE_SEGMENT_RAW` are read from the bytes that hold them, whatever follows them. -/
theorem decodeSegment_bytesOfNat {c : Config} {position : Position} (hp : position < 2 ^ c.posWidth) (byte : Byte)
    (rest : List Byte) :
    decodeSegment c (bytesOfNat (operandBytes c.posWidth) position ++ byte :: rest)
      = .ok (.writeSegmentRaw position byte, rest) := by
  simp [decodeSegment, takeOperand_bytesOfNat _ _ _ hp]

/-- Settles O3: each operand is read from the bytes that hold it, and the length byte tells how many data bytes follow. -/
theorem hostStreamYieldsOneCommand : Obligations.HostStreamYieldsOneCommand := by
  intro c i bytes rest hwf he
  cases i with
  | new | writeDisplayState | clear => cases he; rfl
  | setDisplayState on => cases he; cases on <;> rfl
  | setBrightness level =>
    cases he
    have hlevel : (level.setWidth 8).setWidth 3 = level := BitVec.setWidth_setWidth_of_le level (by decide)
    exact congrArg (fun l => Except.ok (Instr.setBrightness l, rest)) hlevel
  | writeSegmentsRaw position data =>
    cases he
    simp only [Instr.wellFormed, Bool.and_eq_true, fits_iff] at hwf
    obtain ⟨hp, hn⟩ := hwf
    simpa [decodeHost, decodeCommand] using decodeSegments_bytesOfNat hp hn rest
  | writeSegmentRaw position byte =>
    cases he
    simpa [decodeHost, decodeCommand] using decodeSegment_bytesOfNat ((fits_iff _ _).mp hwf) byte rest
  | _ => cases he

/-! ## Encoder requests (R86) -/

/-- A lookup whose operands fit their ports is read back from its request. -/
theorem decodeEnc_of_encode {c : Config} {i : Instr} {request : EncRequest} (hwf : i.wellFormed c = true)
    (he : encode c i = .enc request) : decodeEnc c request = i := by
  cases i with
  | encodeDigit d =>
    cases he
    exact congrArg Instr.encodeDigit (Nat.mod_eq_of_lt ((fits_iff _ _).mp hwf))
  | encodeNumber n =>
    cases he
    exact congrArg Instr.encodeNumber ((BitVec.ofNat_toNat 16 n).trans (BitVec.setWidth_eq n))
  | encodeChar ch =>
    cases he
    exact congrArg Instr.encodeChar (Nat.mod_eq_of_lt ((fits_iff _ _).mp hwf))
  | encodeString chars =>
    cases he
    have hfit : ∀ ch ∈ chars, ch % 2 ^ c.charWidth = ch := fun ch hch =>
      Nat.mod_eq_of_lt ((fits_iff _ _).mp (List.all_eq_true.mp hwf ch hch))
    exact congrArg Instr.encodeString ((List.map_congr_left hfit).trans (List.map_id' chars))
  | _ => cases he

/-! ## Transport primitives (R140 to R145) -/

/-- A string of micro-steps is read back from its codes (R96). -/
theorem decodeMicros_map_encodeMicro (string : List MicroStep) : decodeMicros (string.map encodeMicro) = .ok string := by
  induction string with
  | nil => rfl
  | cons u rest ih => simp [decodeMicros, decodeMicro_encodeMicro, ih]

theorem decodePrim_map_encodeMicro (string : List MicroStep) :
    decodePrim (string.map encodeMicro) = primOfString string := by
  rw [decodePrim, decodeMicros_map_encodeMicro]

/-- Bit cell `i` of a byte's string carries bit `i` (R142, R145). -/
theorem cellLevel_writeByteString (x : Byte) {i : Nat} (hi : i < 8) : cellLevel (writeByteString x) i = x.getLsbD i := by
  interval_cases i <;> rfl

/-- The bit cells of a byte's string carry the byte (R50, R145). -/
theorem cellsByte_writeByteString (x : Byte) : cellsByte (writeByteString x) = x := by
  refine BitVec.eq_of_getLsbD_eq fun i hi => ?_
  simp only [cellsByte, List.foldl_cons, List.foldl_nil, cellLevel_writeByteString, Nat.reduceLT]
  interval_cases i <;> simp

/-- The strings of the other primitives are shorter than a byte's. -/
theorem primOfString_writeByteString (x : Byte) : primOfString (writeByteString x) = .ok (.writeByteAck x) := by
  have hne : ∀ {string : List MicroStep}, string.length < 45 → writeByteString x ≠ string := fun hlt h => by
    rw [← h, writeByteString_length] at hlt
    exact absurd hlt (by decide)
  rw [primOfString, if_neg (hne (by decide)), if_neg (hne (by decide)), if_neg (hne (by decide)), if_neg (hne (by decide)),
    if_neg (hne (by decide)), if_neg (hne (by decide)), cellsByte_writeByteString, if_pos rfl]

/-- A primitive is read back from its string. -/
theorem decodePrim_of_encode {c : Config} {i : Instr} {codes : List MicroCode} (he : encode c i = .prim codes) :
    decodePrim codes = .ok i := by
  cases i with
  | start | stop | bitDelay | ackPhase => cases he; rfl
  | sendBit b => cases he; cases b <;> rfl
  | writeByteAck x =>
    cases he
    exact (decodePrim_map_encodeMicro _).trans (primOfString_writeByteString x)
  | _ => cases he

/-! ## Micro-steps (R96) -/

/-- Settles O4: the codes are numbered from 0, and past 5 there is no micro-step. -/
theorem microStepCodesAreThoseOfTheTable : Obligations.MicroStepCodesAreThoseOfTheTable := by
  refine ⟨fun v => by cases v <;> exact ⟨rfl, rfl⟩, rfl, rfl, decodeMicro_encodeMicro, fun code => ⟨?_, ?_⟩⟩
  · rintro ⟨u, hu⟩
    constructor <;> rintro rfl <;> cases hu
  · rintro ⟨h6, h7⟩
    unfold decodeMicro
    split
    case h_7 => simp only [imp_false] at *; bv_omega
    all_goals exact ⟨_, rfl⟩

/-- A micro-step is read back from its code. -/
theorem decode_of_encode_micro {c : Config} {i : Instr} {code : MicroCode} (he : encode c i = .micro code) :
    decode c (.micro code) = .ok i := by
  cases i with
  | uClk0 | uClk1 | uDio0 | uDio1 | uDly | uAckrd => cases he; rfl
  | _ => cases he

/-! ## Wire bytes (R83, R87 to R89) -/

/-- An address command names its register (R87). -/
theorem addrCmdByte_sub_base (c : Config) (p : BitVec 3) : (addrCmdByte c p.toNat - c.cmdAddrBase).setWidth 3 = p := by
  rw [addrCmdByte, BitVec.add_comm, BitVec.add_sub_cancel]
  exact BitVec.eq_of_toNat_eq (by simp)

theorem decodeWire_addrCmdByte {c : Config} (hc : c.commandsOk = true) {p : BitVec 3} (hp : p.toNat ≤ 5) :
    decodeWire c true (addrCmdByte c p.toNat) = .ok (.addrCmd p) := by
  have hlt : p.toNat < 6 := Nat.lt_succ_of_le hp
  have haddr : isAddrCmd c (addrCmdByte c p.toNat) = true := by simp [isAddrCmd, addrCmdByte_toNat hc hlt, hp]
  rw [decodeWire, if_pos rfl, dataCmdByte, if_neg (addrCmdByte_ne_data hc hlt), if_pos haddr, addrCmdByte_sub_base]

/-- The two fields of `bs` lie in bits 3:0 (92, parameters left OPEN), so its low nibble gives both. -/
theorem bsFields_congr {c : Config} (h : c.layoutOk = true) {x y : Byte} (hxy : bsNibble x = bsNibble y) :
    bsOn c x = bsOn c y ∧ bsLevel c x = bsLevel c y := by
  have hbit : ∀ i < 4, x.getLsbD i = y.getLsbD i := fun i hi => by
    simpa [bsNibble, hi] using congrArg (BitVec.getLsbD · i) hxy
  simp only [Config.layoutOk, Bool.or_eq_true, Bool.and_eq_true, beq_iff_eq] at h
  have hon : c.bsOnBit < 4 := by omega
  have hlsb : c.bsLevelLsb ≤ 1 := by omega
  refine ⟨hbit _ hon, BitVec.eq_of_getLsbD_eq fun j hj => ?_⟩
  simp [bsLevel, hj, hbit (c.bsLevelLsb + j) (by omega)]

/-- The two fields of `bs` are read back from what packs them (R21). -/
theorem bsFields_bsPack {c : Config} (h : c.layoutOk = true) (on : Bool) (level : BitVec 3) :
    bsOn c (bsPack c on level) = on ∧ bsLevel c (bsPack c on level) = level := by
  simp only [Config.layoutOk, Bool.or_eq_true, Bool.and_eq_true, beq_iff_eq] at h
  obtain ⟨hon, hlsb⟩ | ⟨hon, hlsb⟩ := h
  all_goals
    simp only [bsOn, bsLevel, bsPack, bsOnField, bsLevelField, hon, hlsb]
    revert on level; decide

/-- A display-control byte is none of the other commands, and carries both fields of `bs` (R88). -/
theorem decodeWire_displayCtrlByte {c : Config} (hl : c.layoutOk = true) (hc : c.commandsOk = true) (bs : Byte) :
    decodeWire c true (displayCtrlByte c bs) = .ok (.displayCtrl (bsOn c bs) (bsLevel c bs)) := by
  have hfixed := displayCtrlByte_fixed hc bs
  have haddr : ¬ isAddrCmd c (displayCtrlByte c bs) = true := by
    simpa [isAddrCmd] using not_addr_of_displayCtrl hc hfixed
  obtain ⟨hon, hlevel⟩ := bsFields_congr hl (bsNibble_displayCtrlByte hc bs)
  rw [decodeWire, if_pos rfl, dataCmdByte, if_neg (ne_data_of_displayCtrl hc hfixed), if_neg haddr, if_pos hfixed, hon,
    hlevel]

/-- A wire instruction is read back from its byte and its place in the frame. -/
theorem decodeWire_of_encode {c : Config} {i : Instr} {first : Bool} {b : Byte} (hl : c.layoutOk = true)
    (hc : c.commandsOk = true) (hwf : i.wellFormed c = true) (he : encode c i = .wire first b) :
    decodeWire c first b = .ok i := by
  cases i with
  | dataCmd => cases he; simp [decodeWire]
  | addrCmd p => cases he; exact decodeWire_addrCmdByte hc (of_decide_eq_true hwf)
  | displayCtrl on level =>
    cases he
    obtain ⟨hon, hlevel⟩ := bsFields_bsPack hl on level
    rw [decodeWire_displayCtrlByte hl hc, hon, hlevel]
  | dataByte d => cases he; rfl
  | _ => cases he

/-! ## All five layers (R80) -/

/-- Settles O2, layer by layer: the code's layer says which of the five decoders reads it. -/
theorem decodeOfEncodeIsTheInstruction : Obligations.DecodeOfEncodeIsTheInstruction := by
  intro c i hok hwf
  obtain ⟨-, hlayout, hcommands⟩ := config_ok_parts hok
  cases he : encode c i with
  | host bytes =>
    have hstream := hostStreamYieldsOneCommand c i bytes [] hwf he
    rw [List.append_nil] at hstream
    simp [decode, hstream]
  | enc request => exact congrArg Except.ok (decodeEnc_of_encode hwf he)
  | prim codes => exact decodePrim_of_encode he
  | micro code => exact decode_of_encode_micro he
  | wire first b => exact decodeWire_of_encode hlayout hcommands hwf he

/-- Settles O1: each of the twelve words is evaluated. -/
theorem specWordsDecode : Obligations.SpecWordsDecode := by
  unfold Obligations.SpecWordsDecode
  decide

/-! ## The operands of a write (R91, R92) -/

/-- Settles O23: the bytes sent are as many as there are registers from the reduced position on. -/
theorem clampKeepsAWriteInTheRegisters : Obligations.ClampKeepsAWriteInTheRegisters := by
  intro position bytes
  have hp : normPosition position < 6 := (normPosition_add_clampedBytes_length position bytes).1
  refine ⟨rfl, min bytes.length (6 - normPosition position), rfl, rfl, by omega, fun hne => ?_⟩
  have := List.length_pos_of_ne_nil hne
  omega

/-! ## The host's port of an idle block (R84, R98) -/

/-- Settles O6: it is the step in which an operation begins. -/
theorem stepRunsTheOfferedCommand : Obligations.StepRunsTheOfferedCommand := fun _ _ _ => step_offered

/-- Settles O9: an incomplete command is left on the port. -/
theorem idleBlockWaitsForTheLastByte : Obligations.IdleBlockWaitsForTheLastByte := by
  intro s hm hb hdec
  simp [step, fetch_engine hm, hb, fetchCommand, hdec]

/-- An opcode is called reserved exactly when it is none of `0x01..0x07` (R98). -/
theorem decodeCommand_reserved_iff (c : Config) (op : Byte) (bytes : List Byte) :
    decodeCommand c op bytes = .error (.reservedOpcode op) ↔ op.toNat = 0 ∨ 8 ≤ op.toNat := by
  refine ⟨fun h => (decodeCommand_reserved h).2, fun h => ?_⟩
  unfold decodeCommand
  split
  case h_8 => rfl
  all_goals omega

/-- An idle block refuses an opcode exactly when the decoder calls it reserved: an offered command is always accepted. -/
theorem step_reserved_iff {s : State} (hm : s.EngineMoves) (hb : s.busy = false) (op : Byte) :
    step s = .refused (.reservedOpcode op) ↔ decodeHost s.cfg s.cmdIn = .error (.reservedOpcode op) := by
  cases hdec : decodeHost s.cfg s.cmdIn with
  | ok decoded =>
    obtain ⟨i, rest⟩ := decoded
    rw [step_offered ⟨hm, hb, hdec⟩]
    obtain ⟨hexec, -⟩ | ⟨frames, -, hexec, -⟩ :=
      exec_host_idle (s := { s with cmdIn := rest }) (decodeHost_layer hdec) hb <;> simp [hexec]
  | error r => cases r <;> simp [step, fetch_engine hm, hb, fetchCommand, hdec]

/-- Settles O5: what the block refuses is what the decoder calls reserved. -/
theorem reservedOpcodesAreRefused : Obligations.ReservedOpcodesAreRefused := by
  intro s op rest hm hb hin
  rw [step_reserved_iff hm hb, hin]
  exact decodeCommand_reserved_iff s.cfg op rest

/-! ## The host's port of a busy block (R30, R84) -/

/-- No micro-step takes a byte from the host's port. -/
theorem exec_micro_cmdIn {u : MicroStep} {s t : State} (h : exec u.toInstr s = .next t) : t.cmdIn = s.cmdIn := by
  obtain ⟨-, ⟨v, -, rfl, -⟩ | ⟨v, -, rfl⟩ | ⟨-, rfl⟩ | ⟨-, rfl⟩⟩ := exec_micro_next h
  · simp
  · simp
  · simp
  · rw [State.finish_cmdIn, ackRead_frame]
    split <;> rfl

/-- Settles O52: of the things a step can do, only a command, which asks for an idle block, takes bytes. -/
theorem commandBytesWaitWhileBusy : Obligations.CommandBytesWaitWhileBusy := by
  intro s t hb hstep
  obtain rfl | ⟨request, rest, -, he⟩ | ⟨-, -, -, hidle, -⟩ | ⟨-, u, -, he⟩ | ⟨i, rest, ⟨-, hidle, -⟩, -⟩ :=
    step_next_cases hstep
  · rfl
  · rw [exec_lookup_next he]
  · exact absurd hidle (by simp [hb])
  · exact exec_micro_cmdIn he
  · exact absurd hidle (by simp [hb])

end Sys2Proof.Machine

/-! The lookups of the encoder ROM (R120 to R130): what its two tables hold, how an answer stands on `enc_out`, and the lookup a
step serves first, whatever the engine does. -/

namespace Sys2Proof.Machine

/-! ## The two tables (R121, R125, R126) -/

/-- The parts of `Config.ok` on which the answers of the ROM rest. -/
theorem config_ok_roms {c : Config} (h : c.ok = true) : c.digitRomOk = true ∧ c.charRomOk = true := by
  simp only [Config.ok, Bool.and_eq_true] at h
  obtain ⟨⟨-, hdigit⟩, hchar⟩ := h
  exact ⟨hdigit, hchar⟩

theorem digitRom_getElem? (c : Config) (d : Nat) : c.digitRom.toList[d % 10]? = some (romDigit c d) := by
  simp [romDigit, Nat.mod_lt]

theorem romDigit_congr (c : Config) {d d' : Nat} (h : d' % 10 = d % 10) : romDigit c d' = romDigit c d := by
  unfold romDigit; congr 1

/-- A digit's pattern has no decimal point (R121). -/
theorem romDigit_point {c : Config} (h : c.digitRomOk = true) (d : Nat) : (romDigit c d).getLsbD 7 = false := by
  simp only [Config.digitRomOk, Bool.and_eq_true, List.all_eq_true, Bool.not_eq_true'] at h
  obtain ⟨hpoint, -⟩ := h
  exact hpoint _ (List.mem_of_getElem? (digitRom_getElem? c d))

/-- The ten patterns are distinct (R121). -/
theorem romDigit_inj {c : Config} (h : c.digitRomOk = true) {d d' : Nat} :
    romDigit c d' = romDigit c d ↔ d' % 10 = d % 10 := by
  refine ⟨fun he => ?_, romDigit_congr c⟩
  simp only [Config.digitRomOk, Bool.and_eq_true, decide_eq_true_eq] at h
  obtain ⟨-, hdistinct⟩ := h
  refine (List.getElem?_inj (by simp [Nat.mod_lt]) hdistinct).mp ?_
  rw [digitRom_getElem?, digitRom_getElem?, he]

/-- The characters of the map that R125 fixes: the space is blank, a digit character reads as the digit, and what is no digit,
no letter and no symbol is not in it. -/
theorem charRomOk_entries {c : Config} (h : c.charRomOk = true) :
    c.charEntry 0x20 = some Config.blank
    ∧ (∀ d, d ≤ 9 → c.charEntry (0x30 + d) = c.digitRom.toList[d]?)
    ∧ ∀ ch, Config.recognisable ch = false → c.charEntry ch = none := by
  simp only [Config.charRomOk, Bool.and_eq_true, List.all_eq_true, beq_iff_eq, List.mem_range] at h
  obtain ⟨⟨⟨⟨⟨⟨⟨hcodes, hspace⟩, hdigits⟩, -⟩, -⟩, -⟩, -⟩, -⟩ := h
  refine ⟨hspace, fun d hd => hdigits d (Nat.lt_succ_of_le hd), fun ch hch => ?_⟩
  refine List.lookup_eq_none_iff.mpr fun entry hmem => bne_iff_ne.mpr ?_
  rintro rfl
  exact absurd (hch.symm.trans (hcodes entry hmem).1) (by decide)

theorem romChar_of_entry {c : Config} {ch : CharCode} {b : Byte} (h : c.charEntry ch = some b) : romChar c ch = b := by
  simp [romChar, h]

theorem romChar_of_no_entry {c : Config} {ch : CharCode} (h : c.charEntry ch = none) : romChar c ch = Config.blank := by
  simp [romChar, h]

/-- A digit character has the pattern of the digit (R125). -/
theorem romChar_digit {c : Config} (h : c.charRomOk = true) {d : Nat} (hd : d ≤ 9) :
    romChar c (0x30 + d) = romDigit c d := by
  obtain ⟨-, hdigits, -⟩ := charRomOk_entries h
  refine romChar_of_entry ?_
  rw [hdigits d hd, ← digitRom_getElem? c d, Nat.mod_eq_of_lt (Nat.lt_succ_of_le hd)]

/-! ## An answer on `enc_out` (R86) -/

/-- Element `k` of an answer that fits `enc_out` stands on bits `8k+7:8k`. -/
theorem extractLsb'_packBytes {bytes : List Byte} {k : Nat} {b : Byte} (hk : k < 4) (h : bytes[k]? = some b) :
    (packBytes bytes).extractLsb' (8 * k) 8 = b := by
  induction bytes generalizing k with
  | nil => cases h
  | cons b' rest ih =>
    ext i hi
    cases k with
    | zero =>
      cases h
      have hin : i < 32 := by omega
      simp [packBytes, hi, hin]
    | succ k =>
      have hin : 8 * (k + 1) + i < 32 := by omega
      have hpast : b'.getLsbD (8 * (k + 1) + i) = false := BitVec.getLsbD_of_ge _ _ (by omega)
      have hrest : 8 * (k + 1) + i - 8 = 8 * k + i := by omega
      rw [← ih (by omega) h]
      simp [packBytes, hin, hpast, hrest, ← BitVec.getLsbD_eq_getElem, show ¬ 8 * (k + 1) + i < 8 by omega]

theorem packBytes_singleton (b : Byte) : packBytes [b] = BitVec.ofNat 32 b.toNat := by
  simp [packBytes]

/-- The digits of `n mod 10000`, most significant first (R123). -/
theorem numberBytes_getElem? (c : Config) (n : Nat) {k : Nat} {b : Byte} (h : (numberBytes c n)[k]? = some b) :
    k < 4 ∧ b = romDigit c (n % 10000 / 10 ^ (3 - k) % 10) := by
  match k, h with
  | 0, h => cases h; exact ⟨by decide, romDigit_congr c (by simp)⟩
  | 1, h => cases h; exact ⟨by decide, rfl⟩
  | 2, h => cases h; exact ⟨by decide, rfl⟩
  | 3, h => cases h; exact ⟨by decide, romDigit_congr c (by simp)⟩

/-- After a string `enc_out` is that of its last beat (R86, R128). -/
theorem stringBeats_encOut {chars : List CharCode} {ch : CharCode} (h : chars.getLast? = some ch) (s : State) :
    (stringBeats chars s).encOut = Config.freeEncHigh ch ++ romChar s.cfg ch := by
  obtain ⟨front, rfl⟩ := List.getLast?_eq_some_iff.mp h
  have hcfg : (stringBeats front s).cfg = s.cfg := by rw [stringBeats_frame]
  rw [← hcfg, stringBeats, List.foldl_append]
  rfl

/-! ## The four lookups (R122, R123, R127, R128) -/

theorem exec_encodeDigit (d : Digit) (s : State) :
    exec (.encodeDigit d) s = .next (s.answer (BitVec.ofNat 32 (romDigit s.cfg d).toNat) [romDigit s.cfg d]) := by
  rw [← packBytes_singleton]; rfl

theorem exec_encodeChar (ch : CharCode) (s : State) :
    exec (.encodeChar ch) s = .next (s.answer (BitVec.ofNat 32 (romChar s.cfg ch).toNat) [romChar s.cfg ch]) := by
  rw [← packBytes_singleton]; rfl

/-- A string changes the encoder's output alone. -/
theorem exec_encodeString (chars : List CharCode) (s : State) :
    exec (.encodeString chars) s =
      .next (s.answer (stringBeats chars s).encOut (chars.map (romChar s.cfg))) := by
  show Host.Outcome.next { stringBeats chars s with encBytes := chars.map (romChar s.cfg) } = _
  rw [stringBeats_frame]; rfl

/-- Settles O40: the ten patterns of the table are distinct and have bit 7 clear. -/
theorem encodeDigitLooksUpTheDigit : Obligations.EncodeDigitLooksUpTheDigit := by
  refine ⟨fun c input => rfl, fun s d hok => ?_⟩
  obtain ⟨hrom, -⟩ := config_ok_roms hok
  refine ⟨_, romDigit s.cfg d, exec_encodeDigit d s, rfl, digitRom_getElem? s.cfg d, romDigit_point hrom d, ?_⟩
  intro d' t' ht'
  cases ht'
  exact List.singleton_inj.trans (romDigit_inj hrom)

/-- Settles O41: the four bytes are the patterns of the four digits, and each stands at its place. -/
theorem encodeNumberShowsFourDigits : Obligations.EncodeNumberShowsFourDigits := by
  refine ⟨fun c input => rfl, fun s n hok => ⟨_, _, _, _, _, rfl, rfl, fun k b hb => ?_⟩⟩
  obtain ⟨hrom, -⟩ := config_ok_roms hok
  obtain ⟨hk, rfl⟩ := numberBytes_getElem? s.cfg n.toNat hb
  exact ⟨extractLsb'_packBytes hk hb, romDigit_point hrom _, _, exec_encodeDigit _ s, rfl⟩

/-- Settles O42: an entry of the map or `BLANK`, which is the space's entry. -/
theorem encodeCharIsTotal : Obligations.EncodeCharIsTotal := by
  refine ⟨fun c input => rfl, fun s ch hok => ?_⟩
  obtain ⟨-, hrom⟩ := config_ok_roms hok
  obtain ⟨hspace, -, -⟩ := charRomOk_entries hrom
  refine ⟨_, romChar s.cfg ch, exec_encodeChar ch s, rfl, fun e he => romChar_of_entry he, fun hnone => ?_, ?_⟩
  · rw [exec_encodeChar, romChar_of_entry hspace, romChar_of_no_entry hnone]
    exact ⟨rfl, rfl⟩
  · intro d hd hch
    rw [exec_encodeDigit, hch, romChar_digit hrom hd]

/-- Settles O43: the bytes are those of the characters, and `enc_out` is that of the last beat. -/
theorem encodeStringMapsEncodeChar : Obligations.EncodeStringMapsEncodeChar := by
  refine ⟨fun c input => rfl, fun c chars hfit => decodeEnc_of_encode (List.all_eq_true.mpr hfit) rfl, ?_⟩
  intro s chars
  refine ⟨_, exec_encodeString chars s, rfl, List.length_map .., fun i ch hi => ?_, fun b hb => ?_⟩
  · refine ⟨_, romChar s.cfg ch, exec_encodeChar ch s, rfl, by simp [hi], fun hok hch => ?_⟩
    obtain ⟨-, hrom⟩ := config_ok_roms hok
    obtain ⟨-, -, habsent⟩ := charRomOk_entries hrom
    exact romChar_of_no_entry (habsent ch hch)
  · simp only [State.answer_encBytes, List.getLast?_map, Option.map_eq_some_iff] at hb
    obtain ⟨ch, hlast, rfl⟩ := hb
    rw [State.answer_encOut, stringBeats_encOut hlast]
    exact BitVec.setWidth_append_eq_right

/-! ## The encoder's port (R120, R130) -/

/-- Settles O8: the encoder's port is the first that is looked at. -/
theorem stepRunsTheEncoderRequest : Obligations.StepRunsTheEncoderRequest := by
  intro s request rest hin
  have hfetch : fetch s = .run (decodeEnc s.cfg request) { s with encIn := rest } := by unfold fetch; rw [hin]
  unfold step; rw [hfetch]

/-- A lookup answers alike under the same parameters, but for `enc_out` on an empty string (R120). -/
theorem exec_lookup_congr {i : Instr} (hi : i.layer = .enc) {s s' t t' : State} (h : exec i s = .next t)
    (h' : exec i s' = .next t') (hcfg : s'.cfg = s.cfg) :
    t'.encBytes = t.encBytes ∧ (i ≠ .encodeString [] → t'.encOut = t.encOut) := by
  cases i with
  | encodeDigit | encodeNumber | encodeChar => cases h; cases h'; simp [hcfg]
  | encodeString chars =>
    rw [exec_encodeString] at h h'
    cases h; cases h'
    refine ⟨by simp [hcfg], fun hne => ?_⟩
    have hlast := List.getLast?_eq_some_getLast (mt (congrArg Instr.encodeString) hne)
    rw [State.answer_encOut, State.answer_encOut, stringBeats_encOut hlast, stringBeats_encOut hlast, hcfg]
  | _ => cases hi

/-- Only the empty string asks for the encoding of no character. -/
theorem decodeEnc_eq_empty {c : Config} {request : EncRequest} (h : decodeEnc c request = .encodeString []) :
    request = .string [] := by
  cases request with
  | string chars => rw [List.map_eq_nil_iff.mp (Instr.encodeString.inj h)]
  | beat sel input => unfold decodeEnc at h; dsimp only at h; split at h <;> cases h

/-- Settles O44: a step serves the port first, and no lookup reads more of the state than the parameters. -/
theorem encoderNeverFails : Obligations.EncoderNeverFails := by
  intro s request rest hin
  obtain ⟨t, ht⟩ := exec_lookup_completes s.cfg request { s with encIn := rest }
  refine ⟨t, (stepRunsTheEncoderRequest s request rest hin).trans ht, exec_lookup_next ht, ?_⟩
  intro s' rest' hin' hcfg
  obtain ⟨t', ht'⟩ := exec_lookup_completes s.cfg request { s' with encIn := rest' }
  obtain ⟨hbytes, hout⟩ := exec_lookup_congr (decodeEnc_layer s.cfg request) ht ht' hcfg
  refine ⟨t', ?_, hbytes, fun hne => hout (mt decodeEnc_eq_empty hne)⟩
  have hsame : decodeEnc s'.cfg request = decodeEnc s.cfg request := by rw [hcfg]
  rw [stepRunsTheEncoderRequest s' request rest' hin', hsame, ht']

end Sys2Proof.Machine

/-! What the transport primitives issue, leave on the lines and give the target (R140 to R145), and the level of the clock at
every read (R146). -/

namespace Sys2Proof.Machine

/-! ## Completion and refusal (U7) -/

/-- A state the target has seen is answered when a condition holds and refused when it does not, if the condition says exactly
when the target is not lost. -/
theorem watched_of_lost_iff {s : State} {p : Prop} (h : s.target.lost = false ↔ p) :
    (p → watched s = .next s) ∧ (¬ p → watched s = .refused .targetUnspecified) :=
  ⟨fun hp => watched_of_not_lost (h.mpr hp), fun hp => watched_of_lost (by simpa using mt h.mp hp)⟩

/-- A data write changes nothing in whether the clock can be raised: with the clock LOW the target does not see it. -/
theorem State.canRaise_driveDio (s : State) (v : Level) : (s.driveDio v).CanRaise ↔ s.CanRaise := by
  unfold State.CanRaise
  cases hclk : s.clkO with
  | false => simp [hclk]
  | true => simp [Target.Ready, hclk]; tauto

/-! ## What a string changes, and what the target sees of a primitive's string -/

/-- A string leaves on the lines and gives the target what its view says; beside them only the answers left and the trace
change. -/
theorem State.performAll_frame (s : State) (string : List MicroStep) :
    s.performAll string = { s with
      clkO := (s.view.afterAll s.cfg string).clk, dioO := (s.view.afterAll s.cfg string).dio
      target := (s.view.afterAll s.cfg string).target, lineIn := (s.performAll string).lineIn
      lineDraws := (s.performAll string).lineDraws, trace := (s.performAll string).trace } := by
  rw [← State.performAll_view]
  induction string generalizing s with
  | nil => rfl
  | cons u string ih =>
    rw [State.performAll_cons]
    refine (ih (s.perform u)).trans ?_
    generalize (s.perform u).performAll string = t
    rw [State.perform_frame s u]

@[simp] theorem State.performAll_cfg (s : State) (string : List MicroStep) : (s.performAll string).cfg = s.cfg := by
  rw [State.performAll_frame]

/-- The target a string leaves is that of its view. -/
theorem State.performAll_target (s : State) (string : List MicroStep) :
    (s.performAll string).target = (s.view.afterAll s.cfg string).target :=
  congrArg View.target (s.performAll_view string)

/-- A bit cell is one rising edge, at the level of its bit: the data line moves while the clock is LOW (R142). -/
theorem View.afterAll_sendBitString_edge (c : Config) (v : View) (b : Level) :
    v.afterAll c (sendBitString b) = ⟨true, b, v.target.onClk c false b true⟩ := by
  simp [sendBitString, View.after]

/-- An acknowledge phase is one rising edge with the data line LOW (R144). -/
theorem View.afterAll_ackPhaseString (c : Config) (v : View) :
    v.afterAll c ackPhaseString = ⟨true, false, v.target.onClk c false false true⟩ := by
  simp [ackPhaseString, View.after]

/-- Outside a frame the target sees nothing of bit cells (R58). -/
theorem View.afterAll_bitCells_outside (c : Config) (v : View) (x : Byte) (places : List Nat)
    (hf : v.target.inframe = false) : (v.afterAll c (bitCells x places)).target = v.target := by
  induction places generalizing v with
  | nil => rfl
  | cons i rest ih =>
    rw [bitCells, View.afterAll_append, View.afterAll_sendBitString_edge, Target.onClk_outside _ _ _ _ _ hf]
    exact ih _ hf

/-- Outside a frame the target sees nothing of a byte (R58, R145). -/
theorem View.afterAll_writeByteString_outside (c : Config) (v : View) (x : Byte) (hf : v.target.inframe = false) :
    v.afterAll c (writeByteString x) = ⟨true, false, v.target⟩ := by
  rw [writeByteString, View.afterAll_append, View.afterAll_ackPhaseString, View.afterAll_bitCells_outside c v x _ hf,
    Target.onClk_outside _ _ _ _ _ hf]

/-! ## Start and stop (R140, R141) -/

/-- A rising edge between two data writes, the shape of `START` and of `STOP`, loses the target exactly when the clock cannot
be raised: the data writes lose nothing. -/
theorem edge_between_data_writes_lost_iff (s : State) (v w : Level) :
    (((((s.driveDio v).driveClk true).delay).driveDio w).delay).target.lost = false ↔ s.CanRaise := by
  rw [State.delay_target, State.driveDio_target, Target.onDio_lost, ← s.canRaise_driveDio v]
  exact (s.driveDio v).onClk_lost_iff v

/-- Settles O30: outside a frame only the fall of the data line concerns the target. -/
theorem startMakesAStartCondition : Obligations.StartMakesAStartCondition := by
  intro s
  obtain ⟨hnext, hrefused⟩ := watched_of_lost_iff (s := start s) (edge_between_data_writes_lost_iff s true false)
  refine ⟨fun hraise => ⟨_, hnext hraise, ?_, fun hf => ?_⟩, hrefused⟩
  · simp [start, State.driveDio, State.driveClk, State.delay]
  · rw [start_eq_performAll, State.performAll_target, View.afterAll_startString _ _ hf]; rfl

/-- Settles O31: from the levels that an acknowledge phase leaves, only the rise of the data line concerns the target. -/
theorem stopMakesAStopCondition : Obligations.StopMakesAStopCondition := by
  intro s
  obtain ⟨hnext, hrefused⟩ := watched_of_lost_iff (s := stop s) (edge_between_data_writes_lost_iff s false true)
  refine ⟨fun hraise => ⟨_, hnext hraise, ?_, fun hclk hdio => ?_⟩, hrefused⟩
  · simp [stop, State.driveDio, State.driveClk, State.delay]
  · have hview : s.view = ⟨true, false, s.target⟩ := by rw [State.view, hclk, hdio]
    rw [stop_eq_performAll, State.performAll_target, hview, View.afterAll_stopString]

/-! ## The bit cell and the delay (R142, R143) -/

/-- A bit cell gives the target one rising edge, at the level of its bit. -/
theorem sendBit_target (b : Level) (s : State) : (sendBit b s).target = s.target.onClk s.cfg false b true := by
  rw [sendBit_eq_performAll, State.performAll_target, View.afterAll_sendBitString_edge]; rfl

/-- Settles O32: the edge of the cell sets bit number `nbits` of a target inside a frame. -/
theorem sendBitSendsOneBit : Obligations.SendBitSendsOneBit := by
  intro s b
  have hlost : (sendBit b s).target.lost = false ↔ s.target.Ready s.cfg := by
    rw [sendBit_target, Target.onClk_lost_iff]
  obtain ⟨hnext, hrefused⟩ := watched_of_lost_iff hlost
  refine ⟨fun hready => ⟨_, hnext hready, ?_, fun hf hn => ?_, fun hf => ?_⟩, hrefused⟩
  · simp [sendBit, State.driveDio, State.driveClk, State.delay]
  · rw [sendBit_target, Target.onClk_bit _ _ _ hf hn]
    exact ⟨rfl, fun n hn => getLsbD_setBit _ _ _ n hn, rfl⟩
  · rw [sendBit_target, Target.onClk_outside _ _ _ _ _ hf]

/-- Settles O33: a delay is its mark in the trace. -/
theorem bitDelayIsOneMark : Obligations.BitDelayIsOneMark := fun _ => rfl

/-! ## The acknowledge phase (R144) -/

/-- The last read of an acknowledge phase: LOW, or at the bound. -/
theorem settle_last {n : Nat} {s : State} (h : s.lineLevel = false ∨ n = 0) : settle (n + 1) s = s.afterRead := if_pos h

/-- A HIGH answer before the bound: a delay, and the rest of the phase. -/
theorem settle_more {n : Nat} {s : State} (hhigh : s.lineLevel = true) (hn : n ≠ 0) :
    settle (n + 1) s = settle n s.afterRead.delay := if_neg (by simp [hhigh, hn])

/-- The trace after a HIGH read and its delay, then `k` more of them and a last read. -/
theorem trace_high_read {s : State} (hhigh : s.lineLevel = true) (k : Nat) (a : Level) :
    s.afterRead.delay.trace ++ highReads k ++ [.rd a] = s.trace ++ highReads (k + 1) ++ [.rd a] := by
  simp [highReads, hhigh]

/-- The reads of a phase with bound `n + 1`: all but the last HIGH, and the last LOW if it is before the bound. -/
theorem settle_trace (n : Nat) (s : State) :
    ∃ k a, (settle (n + 1) s).trace = s.trace ++ highReads k ++ [.rd a] ∧ k ≤ n ∧ (k < n → a = false) := by
  induction n generalizing s with
  | zero => exact ⟨0, s.lineLevel, by simp [settle_last, highReads], Nat.le_refl 0, nofun⟩
  | succ n ih =>
    cases hlevel : s.lineLevel with
    | false => exact ⟨0, false, by simp [settle_last, highReads, hlevel], Nat.zero_le _, fun _ => rfl⟩
    | true =>
      obtain ⟨k, a, htrace, hk, ha⟩ := ih s.afterRead.delay
      rw [settle_more hlevel n.succ_ne_zero, htrace, trace_high_read hlevel]
      exact ⟨k + 1, a, rfl, Nat.succ_le_succ hk, fun h => ha (Nat.lt_of_succ_lt_succ h)⟩

/-- Answers that are HIGH `k` times and then LOW, before the bound, give `k + 1` reads. -/
theorem settle_answered_low {k n : Nat} {rest : List Level} (hk : k < n) {s : State}
    (h : s.lineIn = List.replicate k true ++ false :: rest) :
    (settle n s).lineIn = rest ∧ (settle n s).trace = s.trace ++ highReads k ++ [.rd false] := by
  obtain ⟨n, rfl⟩ := Nat.exists_eq_add_one_of_ne_zero (Nat.ne_zero_of_lt hk)
  induction k generalizing n s with
  | zero =>
    have hlevel : s.lineLevel = false := lineLevel_cons h
    rw [settle_last (.inl hlevel)]
    simp [h, hlevel, highReads]
  | succ k ih =>
    have hlevel : s.lineLevel = true := lineLevel_cons h
    obtain ⟨n, rfl⟩ := Nat.exists_eq_add_one_of_ne_zero (show n ≠ 0 by omega)
    rw [settle_more hlevel n.succ_ne_zero, ← trace_high_read hlevel]
    exact ih (s := s.afterRead.delay) (by simp [h, List.replicate_succ]) n (by omega)

/-- Answers that are HIGH up to the bound give as many reads as the bound allows. -/
theorem settle_answered_high {n : Nat} {rest : List Level} {s : State}
    (h : s.lineIn = List.replicate (n + 1) true ++ rest) :
    (settle (n + 1) s).lineIn = rest ∧ (settle (n + 1) s).trace = s.trace ++ highReads n ++ [.rd true] := by
  have hlevel : s.lineLevel = true := lineLevel_cons h
  induction n generalizing s with
  | zero => rw [settle_last (.inr rfl)]; simp [h, hlevel, highReads]
  | succ n ih =>
    have h' : s.afterRead.delay.lineIn = List.replicate (n + 1) true ++ rest := by simp [h, List.replicate_succ]
    rw [settle_more hlevel n.succ_ne_zero, ← trace_high_read hlevel]
    exact ih h' (lineLevel_cons h')

/-- The state in which the reads of an acknowledge phase begin. -/
def ackOpened (s : State) : State := (((s.driveClk false).driveDio false).delay).driveClk true

/-- An acknowledge phase is its opening and its reads. -/
theorem ackPhase_eq_settle (s : State) : ackPhase s = settle s.cfg.ackSettleMax (ackOpened s) := rfl

theorem ackOpened_trace (s : State) : (ackOpened s).trace = s.trace ++ ackOpening := by simp [ackOpened, ackOpening]

theorem ackOpened_lineIn (s : State) : (ackOpened s).lineIn = s.lineIn := rfl

/-- The trace of an acknowledge phase, whatever the answers. -/
theorem ackPhase_trace {s : State} (hack : 1 ≤ s.cfg.ackSettleMax) :
    ∃ k a, (ackPhase s).trace = s.trace ++ ackOpening ++ highReads k ++ [.rd a] ∧ k + 1 ≤ s.cfg.ackSettleMax
      ∧ (k + 1 < s.cfg.ackSettleMax → a = false) := by
  obtain ⟨n, hn⟩ := Nat.exists_eq_add_of_le' hack
  obtain ⟨k, a, htrace, hk, ha⟩ := settle_trace n (ackOpened s)
  rw [ackPhase_eq_settle, hn, htrace, ackOpened_trace]
  exact ⟨k, a, rfl, Nat.succ_le_succ hk, fun h => ha (Nat.lt_of_succ_lt_succ h)⟩

/-- An acknowledge phase completes, or is refused, by whether its clock edge can be given (U7). -/
theorem exec_ackPhase (s : State) :
    (s.target.Ready s.cfg → exec .ackPhase s = .next (ackPhase s))
      ∧ (¬ s.target.Ready s.cfg → exec .ackPhase s = .refused .targetUnspecified) := by
  refine watched_of_lost_iff ?_
  rw [ackPhase_eq_performAll, State.performAll_target, View.afterAll_ackPhaseString]
  exact Target.onClk_lost_iff _ _ _

/-- Settles O34: the reads are those of the settle loop, which leaves the lines as the opening does. -/
theorem ackPhaseReadsUntilLowOrTheBound : Obligations.AckPhaseReadsUntilLowOrTheBound := by
  intro s hack
  obtain ⟨hnext, hrefused⟩ := exec_ackPhase s
  obtain ⟨k, a, htrace, hk, ha⟩ := ackPhase_trace hack
  refine ⟨fun hready => ⟨_, k, a, hnext hready, htrace, hk, ha, ?_⟩, hrefused⟩
  rw [ackPhase_eq_performAll]
  conv_lhs => rw [State.performAll_frame]
  rw [State.performAll_target, View.afterAll_ackPhaseString]

/-- Settles O35: the settle loop takes the answers one by one. -/
theorem ackPhaseTakesTheEnvironmentsAnswers : Obligations.AckPhaseTakesTheEnvironmentsAnswers := by
  intro s rest hack hready
  have hnext := (exec_ackPhase s).1 hready
  refine ⟨fun k hk hin => ⟨_, hnext, ?_⟩, fun hin => ⟨_, hnext, ?_⟩⟩
  · rw [ackPhase_eq_settle, ← ackOpened_trace]
    exact settle_answered_low hk hin
  · obtain ⟨n, hn⟩ := Nat.exists_eq_add_of_le' hack
    rw [hn] at hin
    rw [ackPhase_eq_settle, hn, ← ackOpened_trace]
    exact settle_answered_high (s := ackOpened s) hin

/-! ## A byte with its acknowledge phase (R145) -/

/-- The events of bit cells (R142). -/
theorem State.performAll_bitCells_trace (s : State) (x : Byte) (places : List Nat) :
    (s.performAll (bitCells x places)).trace = s.trace ++ cellEvents x places := by
  induction places generalizing s with
  | nil => exact (List.append_nil _).symm
  | cons i rest ih =>
    rw [bitCells, State.performAll_append, ih, ← sendBit_eq_performAll]
    simp [sendBit, cellEvents]

/-- The trace of a byte: its eight bit cells, and an acknowledge phase. -/
theorem writeByteAck_trace {s : State} (hack : 1 ≤ s.cfg.ackSettleMax) (x : Byte) :
    ∃ k a, (writeByteAck x s).trace
        = s.trace ++ cellEvents x [0, 1, 2, 3, 4, 5, 6, 7] ++ ackOpening ++ highReads k ++ [.rd a]
      ∧ k + 1 ≤ s.cfg.ackSettleMax := by
  obtain ⟨k, a, htrace, hk, -⟩ := ackPhase_trace (s := s.performAll (bitCells x [0, 1, 2, 3, 4, 5, 6, 7]))
    (by rwa [State.performAll_cfg])
  rw [State.performAll_bitCells_trace] at htrace
  rw [State.performAll_cfg] at hk
  rw [writeByteAck_eq_performAll, writeByteString, State.performAll_append, ← ackPhase_eq_performAll]
  exact ⟨k, a, htrace, hk⟩

/-- What a byte leaves on the lines and gives the target: the byte, if it begins inside a frame, else nothing. -/
theorem writeByteAck_view {s : State} (hn : s.target.inframe = true → s.target.nbits = 0) (x : Byte) :
    s.view.afterAll s.cfg (writeByteString x)
      = ⟨true, false, if s.target.inframe then s.target.receive s.cfg x else s.target⟩ := by
  cases hf : s.target.inframe with
  | false => exact View.afterAll_writeByteString_outside _ _ x hf
  | true => exact View.afterAll_writeByteString _ _ x hf (hn hf)

/-- A byte loses the target exactly when R59 gives it no effect at its place in a frame. -/
theorem writeByteAck_lost_iff {s : State} (hl : s.target.lost = false)
    (hn : s.target.inframe = true → s.target.nbits = 0) (x : Byte) :
    (writeByteAck x s).target.lost = false ↔ (s.target.inframe = true → s.target.Takes s.cfg x) := by
  rw [writeByteAck_eq_performAll, State.performAll_target, writeByteAck_view hn]
  cases hf : s.target.inframe with
  | false => simp [hl]
  | true => exact (Target.deliver_lost_iff s.cfg s.target x).trans (by simp [hl])

/-- Settles O36: the ninth edge delivers what the eight bit cells have set. -/
theorem writeByteAckDeliversTheByte : Obligations.WriteByteAckDeliversTheByte := by
  intro s x hack hl hn
  obtain ⟨hnext, hrefused⟩ := watched_of_lost_iff (writeByteAck_lost_iff hl hn x)
  obtain ⟨k, a, htrace, hk⟩ := writeByteAck_trace hack x
  refine ⟨fun htakes => ⟨_, k, a, hnext htakes, htrace, hk, ?_⟩, fun hf htakes => hrefused fun h => htakes (h hf)⟩
  rw [writeByteAck_eq_performAll]
  conv_lhs => rw [State.performAll_frame, writeByteAck_view hn]

/-! ## The clock at every read (R146) -/

/-- From `s` to `t` events are issued that find the clock HIGH at every read, and whose last `CLK` is the level it ends at. -/
def State.ReadsHigh (s t : State) : Prop :=
  ∃ events, t.trace = s.trace ++ events ∧ readsClockHigh s.clkO events = true
    ∧ events.foldl noteClk (some s.clkO) = some t.clkO

theorem State.ReadsHigh.refl (s : State) : s.ReadsHigh s := ⟨[], (List.append_nil _).symm, rfl, rfl⟩

theorem State.ReadsHigh.trans {s t u : State} (h : s.ReadsHigh t) (h' : t.ReadsHigh u) : s.ReadsHigh u := by
  obtain ⟨first, htrace, hhigh, hclk⟩ := h
  obtain ⟨second, htrace', hhigh', hclk'⟩ := h'
  refine ⟨first ++ second, by rw [htrace', htrace, List.append_assoc], ?_, by rw [List.foldl_append, hclk, hclk']⟩
  rw [readsClockHigh_append, hhigh, hclk]
  exact hhigh'

theorem State.readsHigh_driveClk (s : State) (v : Level) : s.ReadsHigh (s.driveClk v) := ⟨[.clk v], rfl, rfl, rfl⟩

theorem State.readsHigh_driveDio (s : State) (v : Level) : s.ReadsHigh (s.driveDio v) := ⟨[.dio v], rfl, rfl, rfl⟩

theorem State.readsHigh_delay (s : State) : s.ReadsHigh s.delay := ⟨[.dly], rfl, rfl, rfl⟩

/-- A read finds the clock HIGH where it is HIGH. -/
theorem State.readsHigh_afterRead {s : State} (hclk : s.clkO = true) : s.ReadsHigh s.afterRead :=
  ⟨[.rd s.lineLevel], rfl, by simp [readsClockHigh, hclk], rfl⟩

/-- The settle loop leaves the clock alone, so it stays HIGH for its reads. -/
theorem readsHigh_settle (n : Nat) {s : State} (hclk : s.clkO = true) : s.ReadsHigh (settle n s) := by
  induction n generalizing s with
  | zero => exact .refl s
  | succ n ih =>
    have hread := State.readsHigh_afterRead hclk
    unfold settle
    split
    · exact hread
    · exact (hread.trans s.afterRead.readsHigh_delay).trans (ih hclk)

theorem readsHigh_start (s : State) : s.ReadsHigh (start s) :=
  ((((s.readsHigh_driveDio true).trans (State.readsHigh_driveClk _ true)).trans (State.readsHigh_delay _)).trans
    (State.readsHigh_driveDio _ false)).trans (State.readsHigh_delay _)

theorem readsHigh_stop (s : State) : s.ReadsHigh (stop s) :=
  ((((s.readsHigh_driveDio false).trans (State.readsHigh_driveClk _ true)).trans (State.readsHigh_delay _)).trans
    (State.readsHigh_driveDio _ true)).trans (State.readsHigh_delay _)

theorem readsHigh_sendBit (b : Level) (s : State) : s.ReadsHigh (sendBit b s) :=
  ((((s.readsHigh_driveClk false).trans (State.readsHigh_driveDio _ b)).trans (State.readsHigh_delay _)).trans
    (State.readsHigh_driveClk _ true)).trans (State.readsHigh_delay _)

/-- The opening of an acknowledge phase ends with `CLK(1)`. -/
theorem readsHigh_ackPhase (s : State) : s.ReadsHigh (ackPhase s) :=
  have hopened : s.ReadsHigh (ackOpened s) :=
    (((s.readsHigh_driveClk false).trans (State.readsHigh_driveDio _ false)).trans (State.readsHigh_delay _)).trans
      (State.readsHigh_driveClk _ true)
  hopened.trans (readsHigh_settle _ rfl)

theorem readsHigh_sendBits (n : Nat) (x : Byte) (s : State) : s.ReadsHigh (sendBits n x s) := by
  induction n generalizing x s with
  | zero => exact .refl s
  | succ n ih => exact (readsHigh_sendBit _ s).trans (ih _ _)

theorem readsHigh_sendBytes (bytes : List Byte) (s : State) : s.ReadsHigh (sendBytes bytes s) := by
  induction bytes generalizing s with
  | nil => exact .refl s
  | cons b rest ih => exact ((readsHigh_sendBits 8 b s).trans (readsHigh_ackPhase _)).trans (ih _)

theorem readsHigh_sendFrames (frames : List (List Byte)) (s : State) : s.ReadsHigh (sendFrames frames s) := by
  induction frames generalizing s with
  | nil => exact .refl s
  | cons f rest ih =>
    exact (((readsHigh_start s).trans (readsHigh_sendBytes f _)).trans (readsHigh_stop _)).trans (ih _)

/-- The big-step reading is `NEW`, at most another `bs`, or frames sent one after another, in any state. -/
theorem completed_cases (i : Instr) (s : State) :
    completed i s = afterNew s ∨ (∃ bs, completed i s = { s with bs := bs })
      ∨ ∃ frames, completed i s = sendFrames frames s := by
  cases i with
  | new => exact .inl rfl
  | setDisplayState | setBrightness => exact .inr (.inl ⟨_, rfl⟩)
  | writeSegmentsRaw position bytes =>
    by_cases hbytes : bytes = []
    · subst hbytes; exact .inr (.inl ⟨s.bs, rfl⟩)
    · exact .inr (.inr ⟨_, writeSegmentsWhole_of_ne hbytes position s⟩)
  | writeSegmentRaw | writeDisplayState | clear => exact .inr (.inr ⟨_, rfl⟩)
  | _ => exact .inr (.inl ⟨s.bs, rfl⟩)

/-- Settles O60: only an acknowledge phase reads, after its `CLK(1)`. -/
theorem clockIsHighAtEveryRead : Obligations.ClockIsHighAtEveryRead := by
  intro s i _
  have hhigh : s.ReadsHigh (completed i s) := by
    obtain hnew | ⟨bs, hbs⟩ | ⟨frames, hframes⟩ := completed_cases i s
    · rw [hnew]; exact (s.readsHigh_driveClk false).trans (State.readsHigh_driveDio _ false)
    · rw [hbs]; exact .refl s
    · rw [hframes]; exact readsHigh_sendFrames frames s
  obtain ⟨events, htrace, hreads, -⟩ := hhigh
  exact ⟨events, htrace, hreads⟩

end Sys2Proof.Machine

/-! The seven operations of the engine (R160 to R166): what an idle block accepts, what the operations that drive the
wire leave in the target, and how many events a write issues. -/

namespace Sys2Proof.Machine

/-! ## `NEW` (R160) -/

/-- Settles O15: with the clock LOW the target sees neither write. -/
theorem newInitialisesTheBlock : Obligations.NewInitialisesTheBlock := by
  refine ⟨fun _ _ => rfl, fun s henc hprem hrst => ?_, fun s hb => ?_⟩
  · simp [step, fetch, henc, fetchEngine, brokenPremise_none.mpr hprem, hrst]
  · simp [exec, execNew, hb, afterNew, bsReset, State.driveClk, State.driveDio]

/-! ## The two fields of `bs` (R21, R161, R162) -/

/-- What the level's mask leaves of `bs` is its level, at its place. -/
theorem and_bsLevelMask (c : Config) (bs : Byte) : bs &&& bsLevelMask c = bsLevelField c (bsLevel c bs) := by
  have hseven : ∀ j (hj : j < 8), (7#8)[j] = decide (j < 3) := by decide
  refine BitVec.eq_of_getLsbD_eq fun i hi => ?_
  by_cases hplace : i < c.bsLevelLsb
  · simp [bsLevelMask, bsLevelField, hplace]
  · have hback : c.bsLevelLsb + (i - c.bsLevelLsb) = i := by omega
    simp [bsLevelMask, bsLevelField, bsLevel, hplace, hseven, hback, hi, Bool.and_comm]

/-- What the mask of on/off leaves of `bs` is that bit, at its place. -/
theorem and_bsOnMask (c : Config) (bs : Byte) : bs &&& bsOnMask c = bsOnField c (bsOn c bs) := by
  refine (BitVec.and_twoPow bs c.bsOnBit).trans ?_
  unfold bsOnField bsOn
  cases bs.getLsbD c.bsOnBit with
  | false => simp
  | true => rfl

/-- `SET_DISPLAY_STATE` packs the new on/off bit with the level (R161). -/
theorem bsSetOn_eq_bsPack (c : Config) (bs : Byte) (on : Bool) : bsSetOn c bs on = bsPack c on (bsLevel c bs) := by
  rw [bsSetOn, and_bsLevelMask, BitVec.or_comm, bsPack]

/-- `SET_BRIGHTNESS` packs the new level with the on/off bit (R162). -/
theorem bsSetLevel_eq_bsPack (c : Config) (bs : Byte) (level : BitVec 3) :
    bsSetLevel c bs level = bsPack c (bsOn c bs) level := by
  rw [bsSetLevel, and_bsOnMask, bsPack]

/-- What is packed has bits 7:4 zero (R21). -/
theorem bsPack_small {c : Config} (h : c.layoutOk = true) (on : Bool) (level : BitVec 3) :
    (bsPack c on level).toNat < 16 := by
  obtain ⟨hon, hlevel⟩ := bsFields_bsPack h on level
  have hlow := bsPack_fields h (bsPack c on level)
  rw [hon, hlevel] at hlow
  rw [hlow, BitVec.toNat_and]
  exact Nat.and_lt_two_pow (n := 4) _ (by decide)

/-- With on/off in bit 3 the level is in bits 2:0: no other layout is left (92, parameters left OPEN). -/
theorem bsLevelLsb_of_bsOnBit {c : Config} (h : c.layoutOk = true) (hon : c.bsOnBit = 3) : c.bsLevelLsb = 0 := by
  simpa [Config.layoutOk, hon] using h

/-- Settles O16: the value is the operand packed with the level that was there. -/
theorem setDisplayStateWritesTheOnField : Obligations.SetDisplayStateWritesTheOnField := by
  refine ⟨fun _ _ _ => rfl, fun s on hc hb => ?_⟩
  obtain ⟨-, hlayout, -⟩ := config_ok_parts hc
  have hpack := bsSetOn_eq_bsPack s.cfg s.bs on
  obtain ⟨hon, hlevel⟩ := bsFields_bsPack hlayout on (bsLevel s.cfg s.bs)
  refine ⟨_, accept_idle _ hb, rfl, hpack ▸ hon, hpack ▸ hlevel, hpack ▸ bsPack_small hlayout _ _, fun h3 => ?_⟩
  cases on <;> simp [bsSetOn, bsLevelMask, bsOnField, h3, bsLevelLsb_of_bsOnBit hlayout h3]

/-- Settles O17: the value is the operand packed with the on/off bit that was there. -/
theorem setBrightnessWritesTheLevelField : Obligations.SetBrightnessWritesTheLevelField := by
  refine ⟨fun _ b _ => ⟨_, rfl, BitVec.toNat_setWidth 3 b⟩, fun s level hc hb => ?_⟩
  obtain ⟨-, hlayout, -⟩ := config_ok_parts hc
  have hpack := bsSetLevel_eq_bsPack s.cfg s.bs level
  obtain ⟨hon, hlevel⟩ := bsFields_bsPack hlayout (bsOn s.cfg s.bs) level
  refine ⟨_, accept_idle _ hb, rfl, hpack ▸ hlevel, hpack ▸ hon, hpack ▸ bsPack_small hlayout _ _, fun h3 => ?_⟩
  simp [bsSetLevel, bsOnMask, bsLevelField, h3, bsLevelLsb_of_bsOnBit hlayout h3, BitVec.ofNat_toNat]

/-- Settles O18: the three operations' own statements, one after another. -/
theorem brightnessSurvivesOffAndOn : Obligations.BrightnessSurvivesOffAndOn := by
  intro s level hc hb
  obtain ⟨-, setsLevel⟩ := setBrightnessWritesTheLevelField
  obtain ⟨-, setsOn⟩ := setDisplayStateWritesTheOnField
  obtain ⟨t₁, h₁, e₁, hlevel₁, -⟩ := setsLevel s level hc hb
  rw [e₁] at h₁
  obtain ⟨t₂, h₂, e₂, hon₂, hlevel₂, -⟩ := setsOn { s with bs := t₁.bs } false hc hb
  rw [e₂] at h₂
  obtain ⟨t₃, h₃, e₃, hon₃, hlevel₃, -⟩ := setsOn { s with bs := t₂.bs } true hc hb
  exact ⟨_, _, t₃, h₁, h₂, h₃, hon₂, hon₃, hlevel₃.trans (hlevel₂.trans hlevel₁), e₃⟩

/-! ## The operations that drive the wire, accepted (R163 to R166) -/

/-- A frame of one byte (R82). -/
theorem frameString_singleton (b : Byte) : frameString [b] = startString ++ writeByteString b ++ stopString := by
  simp [frameString, bytesString]

/-- Settles O19: the program is that of the display-control frame. -/
theorem writeDisplayStateIsAccepted : Obligations.WriteDisplayStateIsAccepted := by
  intro s hb
  refine ⟨_, accept_idle _ hb, rfl, ?_, by simp [framesProgram, displayFrames]⟩
  simp [framesProgram, displayFrames, frameString_singleton, displayCtrlByte]

/-- The bytes that a write sends, `M` of them (R92). -/
theorem clampedBytes_eq_take {position m : Nat} {bytes : List Byte} (hm : m = min bytes.length (6 - position % 6)) :
    clampedBytes (normPosition position) bytes = bytes.take m ∧ (bytes.take m).length = m := by
  have hle : m ≤ bytes.length := hm ▸ Nat.min_le_left _ _
  exact ⟨by rw [hm]; rfl, List.length_take_of_le hle⟩

/-- Settles O20: the program is that of the three frames. -/
theorem writeSegmentsRawIsAccepted : Obligations.WriteSegmentsRawIsAccepted := by
  refine ⟨fun s position hb => accept_idle _ hb, ?_⟩
  rintro s position bytes p m hb hbytes rfl hm
  obtain ⟨hsent, hlen⟩ := clampedBytes_eq_take hm
  have hexec : exec (.writeSegmentsRaw position bytes) s
      = .next (s.load (framesProgram (segmentFrames s.cfg s.bs position bytes))) := by
    rw [← loadSegments_of_ne hbytes]; exact accept_idle _ hb
  refine ⟨_, hexec, rfl, ?_, ?_⟩
  · simp [framesProgram, segmentFrames, displayFrames, frameString, bytesString, bytesString_eq, hsent, dataCmdByte,
      addrCmdByte, displayCtrlByte]
    rfl
  · simp only [State.load_uprog, framesProgram, segmentFrames, displayFrames, List.length_append, frameString_length,
      List.length_cons, List.length_nil, hsent, hlen]
    omega

/-- Settles O21: one byte always fits. -/
theorem writeSegmentRawIsAWriteOfOneByte : Obligations.WriteSegmentRawIsAWriteOfOneByte := by
  intro s position byte
  refine ⟨rfl, fun hb => ?_⟩
  obtain ⟨-, haccepted⟩ := writeSegmentsRawIsAccepted
  obtain ⟨t, hexec, hframe, -, hlen⟩ := haccepted s position [byte] _ _ hb (by simp) rfl rfl
  refine ⟨t, hexec, hframe, ?_⟩
  simp only [List.length_singleton] at hlen
  omega

/-- Settles O22: six bytes fit from position 0. -/
theorem clearIsAWriteOfSixZeroBytes : Obligations.ClearIsAWriteOfSixZeroBytes := by
  intro s
  refine ⟨rfl, fun hb => ?_⟩
  obtain ⟨-, haccepted⟩ := writeSegmentsRawIsAccepted
  obtain ⟨t, hexec, hframe, -, hlen⟩ := haccepted s 0 (List.replicate 6 0x00#8) _ _ hb (by simp) rfl rfl
  exact ⟨t, hexec, hframe, hlen⟩

/-! ## What whole frames leave in the target (R59, R82) -/

/-- The target between two frames after it has received one more. -/
def Target.takeFrame (c : Config) (t : Target) (bytes : List Byte) : Target :=
  { t.startFrame.receiveAll c bytes with inframe := false }

/-- The target after it has received frames one after another. -/
def Target.takeFrames (c : Config) (t : Target) (frames : List (List Byte)) : Target := frames.foldl (Target.takeFrame c) t

/-- Frames begun between two frames leave both lines HIGH, and the target has received them one after another. -/
theorem View.afterAll_framesProgram_cons (c : Config) (frames : List (List Byte)) (f : List Byte) (v : View)
    (hf : v.target.inframe = false) :
    v.afterAll c (framesProgram (f :: frames)) = ⟨true, true, v.target.takeFrames c (f :: frames)⟩ := by
  induction frames generalizing f v with
  | nil => rw [framesProgram, framesProgram, List.append_nil, View.afterAll_frameString c v f hf]; rfl
  | cons f' frames ih =>
    rw [framesProgram, View.afterAll_append, View.afterAll_frameString c v f hf, ih f' _ rfl]; rfl

/-- The data command leaves registers and `tctl` alone (R59). -/
theorem takeFrame_dataCmd (c : Config) (t : Target) :
    t.takeFrame c [dataCmdByte c]
      = { t with inframe := false, kind := .dataCmd, nbits := 0, cur := 0#8, nbyte := 1 } := by
  rw [Target.takeFrame, Target.receiveAll_cons, receive_dataCmdByte c rfl]; rfl

/-- A display-control frame commits the low nibble of `bs` to `tctl` (R59, R64). -/
theorem takeFrame_displayCtrl {c : Config} (h : c.commandsOk = true) (t : Target) (bs : Byte) :
    t.takeFrame c [displayCtrlByte c bs]
      = { t with inframe := false, kind := .ctrl, tctl := bsNibble bs, nbits := 0, cur := 0#8, nbyte := 1 } := by
  rw [Target.takeFrame, Target.receiveAll_cons, receive_displayCtrlByte h rfl]; rfl

/-- Data bytes that stay within the registers go to the one the pointer names and those after it; every other register keeps
its value (R51, R59). -/
theorem receiveAll_registers (c : Config) (bytes : List Byte) {t : Target} (h0 : t.nbyte ≠ 0) (ha : t.kind = .addr)
    (hp : t.ptr + bytes.length ≤ 6) :
    (∀ i b, bytes[i]? = some b → (t.receiveAll c bytes).register (t.ptr + i) = some b)
      ∧ ∀ a, a < t.ptr ∨ t.ptr + bytes.length ≤ a → (t.receiveAll c bytes).register a = t.register a := by
  induction bytes generalizing t with
  | nil => exact ⟨nofun, fun _ _ => rfl⟩
  | cons b rest ih =>
    rw [List.length_cons] at hp ⊢
    have hreceive := receive_dataByte c b h0 ha (by omega)
    have hptr : (t.receive c b).ptr = t.ptr + 1 := congrArg Target.ptr hreceive
    obtain ⟨hwritten, hkept⟩ := ih (t := t.receive c b) (by simp [hreceive]) (by simp [hreceive, ha]) (by omega)
    rw [hptr] at hwritten hkept
    have hregister : ∀ a, (t.receive c b).register a = Memory.read (Memory.write t.disp t.ptr b) a := fun a => by
      rw [hreceive]; rfl
    refine ⟨fun i d hd => ?_, fun a hout => ?_⟩
    · cases i with
      | zero =>
        cases hd
        rw [Target.receiveAll_cons, Nat.add_zero, hkept _ (.inl (Nat.lt_succ_self _)), hregister,
          Memory.read_write_same]
      | succ i =>
        rw [Target.receiveAll_cons, ← hwritten i d hd, Nat.add_right_comm, Nat.add_assoc]
    · rw [Target.receiveAll_cons, hkept a (by omega), hregister, Memory.read_write_other _ _ (by omega)]
      rfl

/-- An address frame writes its data bytes from register `p` on, and no other register (R51, R59). -/
theorem takeFrame_registers {c : Config} (h : c.commandsOk = true) (t : Target) {p : Nat} {bytes : List Byte} (hp : p < 6)
    (hlen : p + bytes.length ≤ 6) :
    (∀ i b, bytes[i]? = some b → (t.takeFrame c (addrCmdByte c p :: bytes)).register (p + i) = some b)
      ∧ ∀ a, a < p ∨ p + bytes.length ≤ a → (t.takeFrame c (addrCmdByte c p :: bytes)).register a = t.register a := by
  rw [Target.takeFrame, Target.receiveAll_cons, receive_addrCmdByte h rfl hp]
  exact receiveAll_registers c bytes
    (t := { t.startFrame with kind := .addr, ptr := p, nbits := 0, cur := 0#8, nbyte := 1 }) (Nat.succ_ne_zero 0) rfl hlen

/-- A write's three frames put the bytes sent into the registers from the position on, leave every other register alone, and
commit `bs` to `tctl` (R51, R59, R64). -/
theorem takeFrames_segmentFrames {c : Config} (h : c.commandsOk = true) (t : Target) (bs : Byte) (position : Position)
    (bytes : List Byte) :
    (t.takeFrames c (segmentFrames c bs position bytes)).tctl = bsNibble bs
      ∧ (∀ i b, (clampedBytes (normPosition position) bytes)[i]? = some b →
          (t.takeFrames c (segmentFrames c bs position bytes)).register (normPosition position + i) = some b)
      ∧ ∀ a, a < normPosition position
          ∨ normPosition position + (clampedBytes (normPosition position) bytes).length ≤ a →
          (t.takeFrames c (segmentFrames c bs position bytes)).register a = t.register a := by
  obtain ⟨hp, hlen⟩ := normPosition_add_clampedBytes_length position bytes
  obtain ⟨hwritten, hkept⟩ := takeFrame_registers h (t.takeFrame c [dataCmdByte c]) hp hlen
  have hdata : ∀ a, (t.takeFrame c [dataCmdByte c]).register a = t.register a := fun a => by
    rw [takeFrame_dataCmd]; rfl
  have hcommit : t.takeFrames c (segmentFrames c bs position bytes) = _ := takeFrame_displayCtrl h _ bs
  rw [hcommit]
  exact ⟨rfl, hwritten, fun a hout => (hkept a hout).trans (hdata a)⟩

/-! ## The operations that drive the wire, run to their end (R163, R165, R170) -/

/-- An operation that drives the wire, offered to an idle block, runs to its end: the lines are HIGH, the bytes of the
command taken, `bs` unchanged, and the target between two frames, not lost, has received the operation's frames. -/
theorem offered_frames_reach {s : State} {i : Instr} {rest : List Byte} {frames : List (List Byte)} (h : Inv s)
    (hoffer : s.Offers i rest) (hs : s.Sends frames)
    (hdone : completed i { s with cmdIn := rest } = sendFrames frames { s with cmdIn := rest }) :
    ∃ k t, runFor k s = .next t ∧ t.busy = false ∧ t.bs = s.bs ∧ t.clkO = true ∧ t.dioO = true ∧ t.cmdIn = rest
      ∧ t.target.inframe = false ∧ t.target.lost = false
      ∧ t.target = s.target.takeFrames s.cfg frames := by
  obtain ⟨k, -, hrun, hidle⟩ := hostOperationsRunToCompletion s i rest h hoffer
  obtain ⟨-, hb, -⟩ := hoffer
  obtain ⟨-, -, -, -, hframe, hlost⟩ := h.idle hb
  obtain ⟨-, -, hcommands⟩ := config_ok_parts h.cfgOk
  obtain ⟨hends, hkept⟩ :=
    View.afterAll_framesProgram s.cfg frames s.view (fun _ hf => hs.takesAll hcommands hf) hframe hlost
  have hview : s.view.afterAll s.cfg (framesProgram frames)
      = ⟨true, true, s.target.takeFrames s.cfg frames⟩ := by
    cases frames with
    | nil => exact absurd hs.length.1 (by simp [framesProgram])
    | cons f frames => exact View.afterAll_framesProgram_cons s.cfg frames f s.view hframe
  rw [hdone, sendFrames_eq_performAll, State.performAll_frame] at hrun hidle
  exact ⟨k, _, hrun, hidle, rfl, congrArg View.clk hview, congrArg View.dio hview, rfl, hends, hkept,
    congrArg View.target hview⟩

/-- Settles O57: the one frame commits `bs` and writes no register. -/
theorem writeDisplayStateCommits : Obligations.WriteDisplayStateCommits := by
  intro s rest h hoffer
  obtain ⟨-, -, hcommands⟩ := config_ok_parts h.cfgOk
  obtain ⟨k, t, hrun, hbusy, hbs, hclk, hdio, hin, hframe, hlost, htarget⟩ :=
    offered_frames_reach h hoffer (.inl rfl) rfl
  have hcommit : t.target = _ := htarget.trans (takeFrame_displayCtrl hcommands s.target s.bs)
  exact ⟨k, t, hrun, hbusy, hbs, hclk, hdio, hin, hframe, hlost, by rw [hcommit]; rfl, fun a => by rw [hcommit]; rfl⟩

/-- Settles O56: what the three frames leave in the target, with the bytes sent written out. -/
theorem writeSegmentsRawReachesTheRegisters : Obligations.WriteSegmentsRawReachesTheRegisters := by
  rintro s position bytes rest p m h hoffer hbytes rfl hm
  obtain ⟨-, -, hcommands⟩ := config_ok_parts h.cfgOk
  obtain ⟨k, t, hrun, hbusy, hbs, hclk, hdio, hin, hframe, hlost, htarget⟩ :=
    offered_frames_reach h hoffer (.inr ⟨position, bytes, hbytes, rfl⟩) (writeSegmentsWhole_of_ne hbytes position _)
  obtain ⟨htctl, hwritten, hkept⟩ := takeFrames_segmentFrames hcommands s.target s.bs position bytes
  obtain ⟨hsent, hlen⟩ := clampedBytes_eq_take hm
  rw [← htarget, hsent] at hwritten hkept
  rw [hlen] at hkept
  exact ⟨k, t, hrun, hbusy, hbs, hclk, hdio, hin, hframe, hlost, htarget ▸ htctl,
    fun i b hi hb => hwritten i b ((List.getElem?_take_of_lt hi).trans hb), hkept⟩

/-! ## How many events a write issues (R149, R163, R238) -/

/-- Whether a micro-step writes a pin. -/
def writesPin : MicroStep → Bool
  | .clk _ => true
  | .dio _ => true
  | .dly => false
  | .ackrd => false

/-- How many events a string issues: a pin write or a delay for each of its own, one to `ACK_SETTLE_MAX` reads for each
acknowledge phase, and a delay after each read but the last of a phase (R144). -/
structure EventsOf (c : Config) (string : List MicroStep) (events : List Event) : Prop where
  /-- `uCLK` and `uDIO` write a pin each. -/
  pins : pinWrites events = string.countP writesPin
  /-- An acknowledge phase reads at least once. -/
  readsAtLeast : string.count .ackrd ≤ reads events
  /-- No phase reads past the bound. -/
  readsAtMost : reads events ≤ string.count .ackrd * c.ackSettleMax
  /-- A phase of `k` reads has `k - 1` delays between them. -/
  delays : delays events + string.count .ackrd = string.count .dly + reads events

/-- The events of a string and of the one after it. -/
theorem EventsOf.append {c : Config} {a b : List MicroStep} {e e' : List Event} (h : EventsOf c a e)
    (h' : EventsOf c b e') : EventsOf c (a ++ b) (e ++ e') := by
  obtain ⟨hp, hlo, hhi, hd⟩ := h
  obtain ⟨hp', hlo', hhi', hd'⟩ := h'
  constructor
  · rw [pinWrites_append, List.countP_append, hp, hp']
  · rw [reads_append, List.count_append]; omega
  · rw [reads_append, List.count_append, Nat.add_mul]; omega
  · rw [delays_append, reads_append, List.count_append, List.count_append]; omega

/-- HIGH reads are reads, each with its delay (R144). -/
theorem highReads_counts (k : Nat) :
    pinWrites (highReads k) = 0 ∧ reads (highReads k) = k ∧ delays (highReads k) = k := by
  induction k with
  | zero => exact ⟨rfl, rfl, rfl⟩
  | succ k ih =>
    obtain ⟨hp, hr, hd⟩ := ih
    have hstep : highReads (k + 1) = [.rd true, .dly] ++ highReads k := rfl
    rw [hstep, pinWrites_append, reads_append, delays_append, hp, hr, hd]
    exact ⟨rfl, Nat.add_comm 1 k, Nat.add_comm 1 k⟩

/-- The events of one micro-step, an acknowledge phase taken whole. -/
theorem perform_events {s : State} (hack : 1 ≤ s.cfg.ackSettleMax) (u : MicroStep) :
    ∃ events, (s.perform u).trace = s.trace ++ events ∧ EventsOf s.cfg [u] events := by
  cases u with
  | clk v => exact ⟨[.clk v], rfl, rfl, Nat.zero_le _, Nat.zero_le _, rfl⟩
  | dio v => exact ⟨[.dio v], rfl, rfl, Nat.zero_le _, Nat.zero_le _, rfl⟩
  | dly => exact ⟨[.dly], rfl, rfl, Nat.zero_le _, Nat.zero_le _, rfl⟩
  | ackrd =>
    obtain ⟨n, hn⟩ := Nat.exists_eq_add_of_le' hack
    obtain ⟨k, a, htrace, hk, -⟩ := settle_trace n s
    obtain ⟨hp, hr, hd⟩ := highReads_counts k
    refine ⟨highReads k ++ [.rd a], by rw [State.perform, hn, htrace, List.append_assoc], ?_, ?_, ?_, ?_⟩
    · rw [pinWrites_append, hp]; rfl
    · rw [reads_append]; exact Nat.le_add_left _ _
    · rw [reads_append, hr, hn]; simpa [reads, isRead] using hk
    · rw [delays_append, reads_append, hd, hr]; simp [delays, reads, isRead]

/-- The events of a string, whatever the answers. -/
theorem performAll_events (string : List MicroStep) {s : State} (hack : 1 ≤ s.cfg.ackSettleMax) :
    ∃ events, (s.performAll string).trace = s.trace ++ events ∧ EventsOf s.cfg string events := by
  induction string generalizing s with
  | nil => exact ⟨[], (List.append_nil _).symm, rfl, Nat.le_refl 0, Nat.zero_le _, rfl⟩
  | cons u string ih =>
    obtain ⟨first, htrace, hfirst⟩ := perform_events hack u
    obtain ⟨more, htrace', hmore⟩ := ih (s := s.perform u) (by simpa using hack)
    rw [State.perform_cfg] at hmore
    exact ⟨first ++ more, by rw [State.performAll_cons, htrace', htrace, List.append_assoc], hfirst.append hmore⟩

/-- What every byte has the same number of, a frame has that many times, beside those of `START` and `STOP`. -/
theorem countP_frameString {q : MicroStep → Bool} {n : Nat} (h : ∀ x, (writeByteString x).countP q = n)
    (bytes : List Byte) :
    (frameString bytes).countP q = (startString ++ stopString).countP q + n * bytes.length := by
  have hbytes : (bytesString bytes).countP q = n * bytes.length := by
    induction bytes with
    | nil => rfl
    | cons b rest ih => rw [bytesString, List.countP_append, h, ih, List.length_cons, Nat.mul_succ, Nat.add_comm]
  rw [frameString, List.countP_append, List.countP_append, List.countP_append, hbytes]
  omega

theorem countP_writesPin_frameString (bytes : List Byte) :
    (frameString bytes).countP writesPin = 6 + 27 * bytes.length :=
  countP_frameString (fun _ => rfl) bytes

theorem count_dly_frameString (bytes : List Byte) : (frameString bytes).count .dly = 4 + 17 * bytes.length :=
  countP_frameString (fun _ => rfl) bytes

/-- Settles O59: the three frames of a write of `M` bytes hold `3 + M` bytes. -/
theorem eventCountsOfAWrite : Obligations.EventCountsOfAWrite := by
  intro s position bytes m hack hbytes hm
  obtain ⟨hsent, hlen⟩ := clampedBytes_eq_take hm
  obtain ⟨events, htrace, hpins, hlo, hhi, hdelays⟩ :=
    performAll_events (framesProgram (segmentFrames s.cfg s.bs position bytes)) hack
  simp only [framesProgram, segmentFrames, displayFrames, List.countP_append, List.count_append, List.append_nil,
    countP_writesPin_frameString, count_dly_frameString, count_ackrd_frameString, List.length_cons, List.length_nil,
    hsent, hlen] at hpins hlo hhi hdelays
  have hwhole : completed (.writeSegmentsRaw position bytes) s = _ := writeSegmentsWhole_of_ne hbytes position s
  rw [sendFrames_eq_performAll] at hwhole
  have hphases : 0 + 1 + (m + 1 + (0 + 1)) = 3 + m := by omega
  rw [hphases] at hhi
  exact ⟨events, by rw [hwhole, htrace], by omega, by omega, hhi, by omega⟩

end Sys2Proof.Machine

/-! The reset input against a command in the same beat (R197), and what the answers to the reads of an acknowledge phase can
reach: the trace alone (R191). -/

namespace Sys2Proof.Machine

/-! ## The reset input and a command (R197) -/

/-- Settles O10: the step is that of `NEW`, which touches neither the host's bytes nor `rst`. -/
theorem resetInputBeatsACommand : Obligations.ResetInputBeatsACommand := by
  intro s henc hprem hrst hb
  obtain ⟨-, hinput, hnew⟩ := newInitialisesTheBlock
  exact ⟨_, (hinput s henc hprem hrst).trans (hnew _ hb), rfl, rfl, rfl, rfl⟩

/-! ## The answers to the reads (R191) -/

/-- Two states that differ at most in what the reads take and leave: the answers to come, and the trace. -/
def State.SameButReads (s s' : State) : Prop :=
  ∃ answers draws events, s' = { s with lineIn := answers, lineDraws := draws, trace := events }

/-- The invariant reads none of the answers to come. -/
theorem Inv.withAnswers {s : State} (h : Inv s) (answers : List Level) (draws : Nat) :
    Inv { s with lineIn := answers, lineDraws := draws } := by
  obtain ⟨⟩ := h; constructor <;> assumption

/-- A string leaves what its view says, and the view holds no answer. -/
theorem State.SameButReads.performAll {s s' : State} (h : s.SameButReads s') (string : List MicroStep) :
    (s.performAll string).SameButReads (s'.performAll string) := by
  obtain ⟨answers, draws, events, rfl⟩ := h
  rw [State.performAll_frame s, State.performAll_frame { s with lineIn := answers, lineDraws := draws, trace := events }]
  exact ⟨_, _, _, rfl⟩

theorem State.SameButReads.sendFrames {s s' : State} (h : s.SameButReads s') (frames : List (List Byte)) :
    (sendFrames frames s).SameButReads (sendFrames frames s') := by
  rw [sendFrames_eq_performAll, sendFrames_eq_performAll]
  exact h.performAll _

/-- The frames of a write come from the parameters and `bs`, on which the two states agree. -/
theorem State.SameButReads.writeSegmentsWhole {s s' : State} (h : s.SameButReads s') (position : Position)
    (bytes : List Byte) : (writeSegmentsWhole position bytes s).SameButReads (writeSegmentsWhole position bytes s') := by
  by_cases hbytes : bytes = []
  · subst hbytes; exact h
  · have hsent := h.sendFrames (segmentFrames s.cfg s.bs position bytes)
    obtain ⟨answers, draws, events, rfl⟩ := h
    rw [writeSegmentsWhole_of_ne hbytes, writeSegmentsWhole_of_ne hbytes]
    exact hsent

/-- The big-step reading keeps two states the same but for the reads (R191). -/
theorem State.SameButReads.completed {s s' : State} (h : s.SameButReads s') (i : Instr) :
    (completed i s).SameButReads (completed i s') := by
  have hframes := h.sendFrames (displayFrames s.cfg s.bs)
  have hwrite := h.writeSegmentsWhole
  obtain ⟨answers, draws, events, rfl⟩ := h
  cases i with
  | new => exact ⟨_, _, _, rfl⟩
  | writeSegmentsRaw position bytes => exact hwrite position bytes
  | writeSegmentRaw position byte => exact hwrite position [byte]
  | writeDisplayState => exact hframes
  | clear => exact hwrite 0 _
  | _ => exact ⟨_, _, _, rfl⟩

/-- The big-step reading takes nothing from the host's port (R84). -/
theorem completed_cmdIn (i : Instr) (s : State) : (completed i s).cmdIn = s.cmdIn := by
  obtain hnew | ⟨bs, hbs⟩ | ⟨frames, hframes⟩ := completed_cases i s
  · rw [hnew]; rfl
  · rw [hbs]
  · rw [hframes, sendFrames_eq_performAll, State.performAll_frame]

/-- Settles O58: both runs end as the big-step reading says, which takes from the answers nothing but the trace. -/
theorem readAnswersReachOnlyTheTrace : Obligations.ReadAnswersReachOnlyTheTrace := by
  intro s i rest answers draws h hoffer
  obtain ⟨k, -, hrun, hidle⟩ := hostOperationsRunToCompletion s i rest h hoffer
  obtain ⟨k', -, hrun', -⟩ := hostOperationsRunToCompletion { s with lineIn := answers, lineDraws := draws } i rest
    (h.withAnswers answers draws) hoffer
  have hsame : State.SameButReads { s with cmdIn := rest }
      { s with cmdIn := rest, lineIn := answers, lineDraws := draws } :=
    ⟨answers, draws, s.trace, rfl⟩
  obtain ⟨answers', draws', events', hend⟩ := hsame.completed i
  exact ⟨k, k', _, _, hrun, hrun', hidle, completed_cmdIn i _, by rw [hend]⟩

end Sys2Proof.Machine

/-! What a step of the machine is refused for before anything runs or while an operation is in flight: an overlapping host
operation or a reset (R222, R226), and a broken launch premise (R224, R227, R235). -/

namespace Sys2Proof.Machine

/-! ## Overlapping operations and a reset in flight (R222, R226) -/

theorem exec_new_busy {s : State} (hb : s.busy = true) : exec .new s = .refused .resetWhileBusy := by
  simp [exec, execNew, hb]

/-- Every host operation but `NEW` asks to be accepted, whatever it would then do (R30). -/
theorem exec_host_busy {i : Instr} {s : State} (hl : i.layer = .host) (hnew : i ≠ .new) (hb : s.busy = true) :
    exec i s = .refused .operationInFlight := by
  cases i with
  | new => exact absurd rfl hnew
  | setDisplayState on => exact accept_busy _ hb
  | setBrightness level => exact accept_busy _ hb
  | writeSegmentsRaw position bytes => exact accept_busy _ hb
  | writeSegmentRaw position byte => exact accept_busy _ hb
  | writeDisplayState => exact accept_busy _ hb
  | clear => exact accept_busy _ hb
  | _ => simp [Instr.layer] at hl

/-- Settles O11: the `rst` input runs `NEW`, and taking the request away leaves the sequencer busy. -/
theorem nothingOverlapsAnOperation : Obligations.NothingOverlapsAnOperation := by
  intro s hb
  obtain ⟨-, hinput, -⟩ := newInitialisesTheBlock
  exact ⟨fun i hl hnew => exec_host_busy hl hnew hb, exec_new_busy hb,
    fun henc hprem hrst => (hinput s henc hprem hrst).trans (exec_new_busy hb)⟩

/-! ## Broken launch premises (R224, R227, R235) -/

/-- With no lookup on the encoder's port, a broken premise is the whole step (R235). -/
theorem step_broken {s : State} {r : Refusal} (henc : s.encIn = []) (hr : brokenPremise s = some r) :
    step s = .refused r := by
  simp [step, fetch, henc, fetchEngine, hr]

/-- Settles O12: the premises are looked at in the order P1, P2, P5. -/
theorem brokenPremisesAreRefused : Obligations.BrokenPremisesAreRefused := by
  intro s henc
  refine ⟨fun hout => ?_, fun hout howned => ?_, fun hout howned hreturns => ?_⟩ <;> apply step_broken henc
  · simp [brokenPremise, hout]
  · simp [brokenPremise, hout, howned]
  · simp [brokenPremise, hout, howned, hreturns]

end Sys2Proof.Machine
